-- ==== Sys2Proof/Word.lean ====
section
/-! DEFINITION. The two widths of the block (00_scope.md R6): a byte is 8 bits, a LENGTH or a counter is
16 bits; bit 0 is the least significant bit; everything is unsigned. -/

namespace Sys2Proof

/-- A byte (R6). -/
abbrev Byte := BitVec 8

/-- A 16-bit register or LENGTH field (R6, R13, R14, R16). -/
abbrev Half := BitVec 16

end Sys2Proof
end

