-- ==== Sys2Proof/Config.lean ====
section
/-! DEFINITION. The implementation parameters of 00_scope.md R5 and the other literals of
93_implementation_defined.md U9 (label codes, layout sizes), each once, because they are unaudited and a correction
is then a one-line change (log 30); and the free values of the two parameters the spec leaves OPEN. -/

namespace Sys2Proof.Config

/-- START, the start delimiter (R5, R50). -/
def startByte : Byte := 0x7E

/-- END, the end delimiter (R5, R50). -/
def endByte : Byte := 0xE7

/-- MAX_LEN, the largest accepted inbound LENGTH (R5, R52, R73). -/
def maxLen : Nat := 600

/-- FW_VERSION, the constant firmware version (R5, R17). -/
def fwVersion : Half := 0x0100

/-- BREAK_DEFAULT (R5, R17). -/
def breakDefault : Byte := 9

/-- MAB_DEFAULT (R5, R17). -/
def mabDefault : Byte := 1

/-- RATE_DEFAULT (R5, R17). -/
def rateDefault : Byte := 40

/-! The codes of the eight labels (30_encoding.md R54). -/

/-- Code of invalid (R54). -/
def invalidCode : Byte := 0x00

/-- Code of reprogram_firmware (R54). -/
def reprogramFirmwareCode : Byte := 0x01

/-- Code of program_flash_page (R54). -/
def programFlashPageCode : Byte := 0x02

/-- Code of get_widget_parameters (R54). -/
def getWidgetParametersCode : Byte := 0x03

/-- Code of store_widget_parameters (R54). -/
def storeWidgetParametersCode : Byte := 0x04

/-- Code of receive_dmx_data (R54). -/
def receiveDmxDataCode : Byte := 0x05

/-- Code of send_dmx_data (R54). -/
def sendDmxDataCode : Byte := 0x06

/-- Code of get_widget_serial (R54). -/
def getWidgetSerialCode : Byte := 0x0A

/-- LABEL byte of the parameter reply: the request's own label (R59; the spec's decision D9, log 10). -/
def parameterReplyLabel : Byte := getWidgetParametersCode

/-- LABEL byte of the serial reply: the request's own label (R60; the spec's decision D9, log 10). -/
def serialReplyLabel : Byte := getWidgetSerialCode

/-- LABEL byte of the DMX notification (R54, R61). -/
def notificationLabel : Byte := receiveDmxDataCode

/-! The sizes of the payload layouts (30_encoding.md R57 to R61). -/

/-- Bytes of the user-configuration size field of a get_widget_parameters payload (R57). -/
def sizeFieldSize : Nat := 2

/-- Bytes of a parameter block: two of version, or ignored, and the three parameters (R57, R58). -/
def parameterBlockSize : Nat := 5

/-- Bytes before the channel data of a notification: the flag and a zero (R61). -/
def notificationPrefixSize : Nat := 2

/-- `N` of `State.reset`: the spec's suggested default (R5, D19). DESIGN CHOICE, unsafe (log 17). -/
def capacityDefault : Nat := 512

/-- DMX_BURST, a FREE VALUE (R5, R94, D8 OPEN; log 9): how many bytes one invocation of the send_dmx_data
handler would like to take, for the n-th such choice; the handler brings it into the range R94 allows. -/
opaque dmxBurst : Nat → Nat

/-- VALID_FLAG_BYTE, a FREE VALUE (R5, R61, R135, D13 OPEN; log 12): the first payload byte of a DMX
notification for each value of the validity flag. -/
opaque validFlagByte : Bool → Byte

end Sys2Proof.Config
end

