-- ==== Sys2Proof/Syntax.lean ====
section
/-! DEFINITION. The instructions of the block: one constructor of `Instr` for each of the 21 rows of
spec/opcode_table.json (30_encoding.md R64, R65), with the operands the row's frame carries. Beside them the
five parse states (10_state.md R11) and the eight label members (30_encoding.md R54), which both the decoder
and the machine speak of. -/

namespace Sys2Proof

/-- The parse state, this block's program counter (R11). -/
inductive ParseState where
  | idle
  | awaitingLabel
  | awaitingLength
  | awaitingPayload
  | awaitingEnd
deriving DecidableEq, Repr

/-- The eight members of the label enumeration (R12, R54). -/
inductive Label where
  | invalid
  | reprogramFirmware
  | programFlashPage
  | getWidgetParameters
  | storeWidgetParameters
  | receiveDmxData
  | sendDmxData
  | getWidgetSerial
deriving DecidableEq, Repr

/-- What follows START and LABEL in an inbound frame, as the decoder meets it (R50, R73, R75; log 31). -/
inductive Body where
  /-- LENGTH above 600: the decoder takes the two LENGTH bytes and leaves the frame (R73). -/
  | oversized (len : Half)
  /-- LENGTH accepted: the payload bytes the decoder takes, then the byte it finds where END is due, which is
  END in a frame that completes and anything else in a frame that is dropped (R75, R120). -/
  | framed (len : Half) (payload : List Byte) (endByte : Byte)
deriving DecidableEq, Repr

/-- The opcode table, one constructor a row. `low` holds the LABEL bits that the row's mask leaves free (R64). -/
inductive Instr where
  | invalid (body : Body)
  | reprogramFirmware (body : Body)
  | programFlashPage (body : Body)
  | getWidgetParameters (body : Body)
  | storeWidgetParameters (body : Body)
  | receiveDmxData (body : Body)
  | sendDmxData (body : Body)
  | unsupported07 (body : Body)
  | unsupported08To09 (low : BitVec 1) (body : Body)
  | getWidgetSerial (body : Body)
  | unsupported0B (body : Body)
  | unsupported0CTo0F (low : BitVec 2) (body : Body)
  | unsupported10To1F (low : BitVec 4) (body : Body)
  | unsupported20To3F (low : BitVec 5) (body : Body)
  | unsupported40To7F (low : BitVec 6) (body : Body)
  | unsupported80ToFF (low : BitVec 7) (body : Body)
  /-- The frame the block emits on a completed get_widget_parameters (R132); its operands are the parameters
  and `cfg_size` as the machine holds them. -/
  | parameterReply
  /-- The frame the block emits on a completed get_widget_serial (R133); its operand is SERIAL. -/
  | serialReply
  /-- The frame of `UploadDmx(v, data)` (R135). -/
  | dmxNotification (valid : Bool) (data : List Byte)
  /-- The START delimiter (R71). -/
  | start
  /-- The END delimiter (R75). -/
  | endDelim
deriving DecidableEq, Repr

/-- The sixteen rows of the LABEL decode table (R64). -/
inductive LabelRow where
  | l00 | l01 | l02 | l03 | l04 | l05 | l06 | l07 | l08To09 | l0A | l0B
  | l0CTo0F | l10To1F | l20To3F | l40To7F | l80ToFF
deriving DecidableEq, Repr

end Sys2Proof
end

