-- ==== Sys2Proof/WellFormed.lean ====
section
/-! DEFINITION. Which terms of `Instr` stand for bytes on the wire. Four checks: an oversized LENGTH is above
600 and an accepted one is at most 600 (30_encoding.md R52), the payload has as many bytes as the decoder takes
(R53; for label 0x03, 41_payload_handlers.md R92), and a notification's LENGTH fits its 16-bit field
(43_encoder.md R131, 93_implementation_defined.md U6). -/

namespace Sys2Proof

/-- Every label but 0x03: the whole declared payload is taken before END is looked for (R53, R74). -/
def wholePayload (len : Nat) : Nat := len

/-- Label 0x03: END is looked for after the first two payload bytes, however many were declared (R92). -/
def sizeField (len : Nat) : Nat := min len Config.sizeFieldSize

/-- A frame body the decoder can produce, where `taken` bytes of a declared payload are taken. -/
def Body.wellFormed (taken : Nat → Nat) : Body → Bool
  | .oversized len => decide (Config.maxLen < len.toNat)
  | .framed len payload _ =>
    decide (len.toNat ≤ Config.maxLen) && decide (payload.length = taken len.toNat)

/-- The well-formedness check of an instruction. -/
def wellFormed : Instr → Bool
  | .getWidgetParameters body => body.wellFormed sizeField
  | .invalid body | .reprogramFirmware body | .programFlashPage body | .storeWidgetParameters body
  | .receiveDmxData body | .sendDmxData body | .unsupported07 body | .unsupported08To09 _ body
  | .getWidgetSerial body | .unsupported0B body | .unsupported0CTo0F _ body | .unsupported10To1F _ body
  | .unsupported20To3F _ body | .unsupported40To7F _ body | .unsupported80ToFF _ body =>
    body.wellFormed wholePayload
  | .dmxNotification _ data => decide (data.length + Config.notificationPrefixSize < 65536)
  | .parameterReply | .serialReply | .start | .endDelim => true

end Sys2Proof
end

