-- ==== Sys2Proof/Decode.lean ====
section
/-! DEFINITION. From bytes to instructions and back (30_encoding.md R50 to R65): the byte-order helpers, label
recognition, the LABEL decode table, a decoder that is total on any bytes and rejects by name, the encoder, and
the reading of a table word that the host asks for. -/

namespace Sys2Proof

/-- `LE16(b0, b1) = b0 + 256 * b1`, the byte read first being the low one (R6, R38). -/
def le16 (b0 b1 : Byte) : Half := BitVec.ofNat 16 (b0.toNat + 256 * b1.toNat)

/-- `lo(v) = v[7:0]` (R6). -/
def loByte (v : Half) : Byte := v.extractLsb' 0 8

/-- `hi(v) = v[15:8]` (R6). -/
def hiByte (v : Half) : Byte := v.extractLsb' 8 8

/-- The wire code of a label member (R54). -/
def Label.code : Label → Byte
  | .invalid => Config.invalidCode
  | .reprogramFirmware => Config.reprogramFirmwareCode
  | .programFlashPage => Config.programFlashPageCode
  | .getWidgetParameters => Config.getWidgetParametersCode
  | .storeWidgetParameters => Config.storeWidgetParametersCode
  | .receiveDmxData => Config.receiveDmxDataCode
  | .sendDmxData => Config.sendDmxDataCode
  | .getWidgetSerial => Config.getWidgetSerialCode

/-- The eight members of the label enumeration (R54). -/
def namedLabels : List Label :=
  [.invalid, .reprogramFirmware, .programFlashPage, .getWidgetParameters, .storeWidgetParameters,
    .receiveDmxData, .sendDmxData, .getWidgetSerial]

/-- `Coerce(b)`: the member whose code is `b`, and `invalid` for every other byte (R55; 0x07 to 0x09 by the
spec's decision D4, log 5). -/
def coerce (b : Byte) : Label := (namedLabels.find? fun l => l.code == b).getD .invalid

/-- The mask of a row of the LABEL decode table (R64). -/
def LabelRow.mask : LabelRow → Byte
  | .l00 | .l01 | .l02 | .l03 | .l04 | .l05 | .l06 | .l07 | .l0A | .l0B => 0xFF
  | .l08To09 => 0xFE
  | .l0CTo0F => 0xFC
  | .l10To1F => 0xF0
  | .l20To3F => 0xE0
  | .l40To7F => 0xC0
  | .l80ToFF => 0x80

/-- The match value of a row of the LABEL decode table (R64): the code of the label the row is named after, and
the first byte of the range for a row of coerced codes. -/
def LabelRow.value : LabelRow → Byte
  | .l00 => Label.invalid.code
  | .l01 => Label.reprogramFirmware.code
  | .l02 => Label.programFlashPage.code
  | .l03 => Label.getWidgetParameters.code
  | .l04 => Label.storeWidgetParameters.code
  | .l05 => Label.receiveDmxData.code
  | .l06 => Label.sendDmxData.code
  | .l07 => 0x07
  | .l08To09 => 0x08
  | .l0A => Label.getWidgetSerial.code
  | .l0B => 0x0B
  | .l0CTo0F => 0x0C
  | .l10To1F => 0x10
  | .l20To3F => 0x20
  | .l40To7F => 0x40
  | .l80ToFF => 0x80

/-- A row is selected when `(LABEL & mask) = match` (R65). -/
def LabelRow.hits (r : LabelRow) (label : Byte) : Bool := label &&& r.mask == r.value

/-- All rows but the last, in the table's order (R64). -/
def labelRows : List LabelRow :=
  [.l00, .l01, .l02, .l03, .l04, .l05, .l06, .l07, .l08To09, .l0A, .l0B, .l0CTo0F, .l10To1F, .l20To3F, .l40To7F]

/-- The row that a LABEL byte selects (R64): the first that is hit, and the last row if none of the others is. -/
def rowOf (label : Byte) : LabelRow := (labelRows.find? (·.hits label)).getD .l80ToFF

/-- The instruction of a row, with the LABEL bits its mask leaves free. -/
def LabelRow.build (r : LabelRow) (label : Byte) (body : Body) : Instr :=
  match r with
  | .l00 => .invalid body
  | .l01 => .reprogramFirmware body
  | .l02 => .programFlashPage body
  | .l03 => .getWidgetParameters body
  | .l04 => .storeWidgetParameters body
  | .l05 => .receiveDmxData body
  | .l06 => .sendDmxData body
  | .l07 => .unsupported07 body
  | .l08To09 => .unsupported08To09 (label.extractLsb' 0 1) body
  | .l0A => .getWidgetSerial body
  | .l0B => .unsupported0B body
  | .l0CTo0F => .unsupported0CTo0F (label.extractLsb' 0 2) body
  | .l10To1F => .unsupported10To1F (label.extractLsb' 0 4) body
  | .l20To3F => .unsupported20To3F (label.extractLsb' 0 5) body
  | .l40To7F => .unsupported40To7F (label.extractLsb' 0 6) body
  | .l80ToFF => .unsupported80ToFF (label.extractLsb' 0 7) body

/-- How many bytes of a declared payload are taken before END is looked for (R53, R92). -/
def LabelRow.taken : LabelRow → Nat → Nat
  | .l03 => sizeField
  | _ => wholePayload

/-- Why bytes are no instruction, by name. None of these is an error of the block (30_encoding.md R62). -/
inductive DecodeReject where
  /-- no byte is waiting -/
  | noInput
  /-- in `Idle`, a byte other than START: noise (R71) -/
  | notStart (b : Byte)
  /-- a frame has begun and not all of it is waiting -/
  | truncated
  /-- in `AwaitingEnd`, a byte other than END (R75) -/
  | notEnd (b : Byte)
  /-- the decoder stands inside a frame, where a byte is part of that frame and no instruction of its own -/
  | insideFrame
deriving DecidableEq, Repr

/-- The part of a frame after its LABEL byte, and what follows it. -/
def decodeBody (r : LabelRow) (label : Byte) : List Byte → Except DecodeReject (Instr × List Byte)
  | lo :: hi :: rest =>
    let len := le16 lo hi
    if Config.maxLen < len.toNat then .ok (r.build label (.oversized len), rest)
    else
      let n := r.taken len.toNat
      match rest.drop n with
      | e :: rest' => .ok (r.build label (.framed len (rest.take n) e), rest')
      | [] => .error .truncated
  | _ => .error .truncated

/-- A whole frame at the head of the bytes, met in `Idle`, and what follows it (R50, R53). -/
def decodeFrame : List Byte → Except DecodeReject (Instr × List Byte)
  | [] => .error .noInput
  | b :: rest =>
    if b = Config.startByte then
      match rest with
      | label :: rest' => decodeBody (rowOf label) label rest'
      | [] => .error .truncated
    else .error (.notStart b)

/-- The decoder. What bytes mean depends on where the block stands (R51, R53): in `Idle` a whole frame is its
row's instruction, and START alone is the delimiter when the frame it begins is not all there yet; in
`AwaitingEnd` END is the delimiter; elsewhere a byte is part of the frame in progress. -/
def decodeAt : ParseState → List Byte → Except DecodeReject (Instr × List Byte)
  | .idle, bytes =>
    match decodeFrame bytes with
    | .error .truncated => .ok (.start, bytes.tail)
    | r => r
  | .awaitingEnd, [] => .error .noInput
  | .awaitingEnd, b :: rest => if b = Config.endByte then .ok (.endDelim, rest) else .error (.notEnd b)
  | .awaitingLabel, _ => .error .insideFrame
  | .awaitingLength, _ => .error .insideFrame
  | .awaitingPayload, _ => .error .insideFrame

/-! The encoder, written from the frame format (R50) and the label table (R54, R64). -/

/-- START, LABEL, LENGTH low, LENGTH high (R50). -/
def frameHeader (label : Byte) (len : Half) : List Byte :=
  [Config.startByte, label, loByte len, hiByte len]

/-- The bytes of an inbound frame with this LABEL byte. -/
def encodeBody (label : Byte) : Body → List Byte
  | .oversized len => frameHeader label len
  | .framed len payload e => frameHeader label len ++ payload ++ [e]

/-- The bytes of `rx` that an instruction stands for. An outbound frame is written by the block and never read
by it (R45), so it occupies none: what it puts on `tx` is Machine/Encoder.lean's. -/
def encode : Instr → List Byte
  | .invalid body => encodeBody Label.invalid.code body
  | .reprogramFirmware body => encodeBody Label.reprogramFirmware.code body
  | .programFlashPage body => encodeBody Label.programFlashPage.code body
  | .getWidgetParameters body => encodeBody Label.getWidgetParameters.code body
  | .storeWidgetParameters body => encodeBody Label.storeWidgetParameters.code body
  | .receiveDmxData body => encodeBody Label.receiveDmxData.code body
  | .sendDmxData body => encodeBody Label.sendDmxData.code body
  | .unsupported07 body => encodeBody 0x07 body
  | .unsupported08To09 low body => encodeBody (0b0000100#7 ++ low) body
  | .getWidgetSerial body => encodeBody Label.getWidgetSerial.code body
  | .unsupported0B body => encodeBody 0x0B body
  | .unsupported0CTo0F low body => encodeBody (0b000011#6 ++ low) body
  | .unsupported10To1F low body => encodeBody (0b0001#4 ++ low) body
  | .unsupported20To3F low body => encodeBody (0b001#3 ++ low) body
  | .unsupported40To7F low body => encodeBody (0b01#2 ++ low) body
  | .unsupported80ToFF low body => encodeBody (0b1#1 ++ low) body
  | .parameterReply => []
  | .serialReply => []
  | .dmxNotification _ _ => []
  | .start => [Config.startByte]
  | .endDelim => [Config.endByte]

/-! The words of spec/opcode_table.json. -/

/-- The `n` low bytes of `w`, byte 0 first. -/
def wordBytes : Nat → Nat → List Byte
  | 0, _ => []
  | n + 1, w => BitVec.ofNat 8 w :: wordBytes n (w / 256)

/-- The bytes that a word of the table stands for, and where the block stands when it meets them (log 26).
The table numbers 8 bits of a row (R65): the delimiter itself for the DELIM rows, the LABEL byte for the
others, whose frame is then LENGTH 0 with no payload between the two fixed delimiters. A longer word is the
header in stream order, followed by payload bytes 0 and the fixed END. -/
def tableBytes (nbits w : Nat) : ParseState × List Byte :=
  match wordBytes (max 1 (nbits / 8)) w with
  | [b] =>
    if b = Config.startByte then (.idle, [b])
    else if b = Config.endByte then (.awaitingEnd, [b])
    else (.idle, frameHeader b 0 ++ [Config.endByte])
  | s :: label :: rest =>
    let lo := rest.getD 0 0
    let hi := rest.getD 1 0
    let len := (le16 lo hi).toNat
    let n := if Config.maxLen < len then 0 else (rowOf label).taken len
    (.idle, [s, label, lo, hi] ++ List.replicate n 0 ++ [Config.endByte])
  | [] => (.idle, [])

/-- The instruction the decoder reads from a word of the table. -/
def decodeTableWord (nbits w : Nat) : Option Instr :=
  match decodeAt (tableBytes nbits w).1 (tableBytes nbits w).2 with
  | .ok (i, _) => some i
  | .error _ => none

end Sys2Proof
end

