-- ==== Sys2Proof/Machine/State.lean ====
section
/-! DEFINITION. The state of the block and of what it can observe (10_state.md R10 to R24), as plain data, and
the state right after `Construct` (R24, 70_reset_and_hazards.md R180). -/

namespace Sys2Proof.Machine

/-- The serial number, four bytes sent in index order (R18, R39 (c)). -/
structure Serial where
  b0 : Byte
  b1 : Byte
  b2 : Byte
  b3 : Byte
deriving DecidableEq, Repr

/-- SERIAL of `State.reset`; the spec gives it no value. DESIGN CHOICE, unsafe (log 18). -/
def Serial.zero : Serial := ⟨0, 0, 0, 0⟩

/-- The value a `Process` invocation returns (R20). It is not stored in the block. -/
inductive Event where
  | none
  | parametersRequested
  | parametersChanged
  | serialRequested
  | dmxData
deriving DecidableEq, Repr

/-- The value `GetParameters` returns (44_channel_buffer_and_accessors.md R152). -/
structure Snapshot where
  firmwareVersion : Half
  breakTime : Byte
  mabTime : Byte
  rate : Byte
deriving DecidableEq, Repr

/-- One value an operation has returned to the caller: an event other than `none`, the byte of a
`ReadChannel(c)`, or a parameter snapshot (70_reset_and_hazards.md R193). -/
inductive Observation where
  | event (e : Event)
  | channel (c : Nat) (v : Byte)
  | parameters (p : Snapshot)
deriving DecidableEq, Repr

/-- One move of the caller or of the environment. The first five are the operations of 00_scope.md R8, the
next two the moves of 20_memory.md R37. The last is a shorthand for the caller polling until the whole
instruction at the read position has run (log 2). -/
inductive Input where
  | construct (capacity : Nat) (serial : Serial)
  | process
  | uploadDmx (valid : Bool) (data : List Byte)
  | readChannel (c : Nat)
  | getParameters
  | hostSends (bytes : List Byte)
  | hostTakes (n : Nat)
  | runInstr
deriving DecidableEq, Repr

/-- A byte memory in canonical form: the listed addresses rise strictly and no entry equals what an unlisted
address reads as (log 25). -/
abbrev Memory := List Host.Cell

/-- The state. The block's own registers come first (R10), then the two streams of the transport (R22), then
the model's own record of what surrounds the block (log 1, 9, 24). `firmware_version` is hard-wired: it is the
accessor `State.firmwareVersion` of Machine/Ops.lean (log 23). -/
structure State where
  /-- `state`, the parse state (R11) -/
  parse : ParseState
  /-- `label` (R12) -/
  label : Label
  /-- `length` (R13) -/
  length : Half
  /-- `received` (R14) -/
  received : Half
  /-- `cfg_size` (R16) -/
  cfgSize : Half
  /-- `break_time` (R17) -/
  breakTime : Byte
  /-- `mab_time` (R17) -/
  mabTime : Byte
  /-- `rate` (R17) -/
  rate : Byte
  /-- `SERIAL[0..3]` (R18) -/
  serial : Serial
  /-- `N`, the capacity of the channel buffer (R19) -/
  capacity : Nat
  /-- `chan[0..N-1]` (R19), by internal index (20_memory.md R30) -/
  chan : Memory
  /-- unread inbound bytes, oldest first (R22, 20_memory.md R33) -/
  rx : List Byte
  /-- outbound bytes the environment has not taken, oldest first (R22, 20_memory.md R33) -/
  tx : List Byte
  /-- what the operations have returned to the caller, oldest first (the model's own) -/
  observed : List Observation
  /-- the moves that come next, oldest first (the model's own) -/
  inputs : List Input
  /-- how many free choices of DMX_BURST have been made (the model's own) -/
  choices : Nat
deriving DecidableEq, Repr

/-- Why a run ends with no meaning given (60_exceptions.md R165). -/
inductive Fault where
  /-- `ReadChannel(c)` outside 1..N: raised by `readChannel`, caused by the caller alone (R151). Safe: the
  hardware returns whatever lies there or worse, and the model goes no further (log 20). -/
  | readOutOfRange (c : Nat)
  /-- A read from `rx` with too few bytes: raised by `rxRead1` and `rxReadN`; no rule reaches it
  (20_memory.md R35). Safe (log 20). -/
  | rxUnderrun
deriving DecidableEq, Repr

/-- Why an instruction is given no meaning. -/
inductive Refusal where
  /-- an instruction of the table that the model does not have: raised by `exec` alone; safe. No arm of
  `exec` raises it: every row has its meaning. -/
  | notModelled (mnemonic : String)
deriving DecidableEq, Repr

/-- The state after `Construct` with the default capacity and serial number, on an empty transport (R24, R180;
log 13, 15, 17, 18). -/
def State.reset : State where
  parse := .idle
  label := .invalid
  length := 0
  received := 0
  cfgSize := 0
  breakTime := Config.breakDefault
  mabTime := Config.mabDefault
  rate := Config.rateDefault
  serial := Serial.zero
  capacity := Config.capacityDefault
  chan := []
  rx := []
  tx := []
  observed := []
  inputs := []
  choices := 0

end Sys2Proof.Machine
end

