-- ==== Sys2Proof/Machine/Ops.lean ====
section
/-! DEFINITION. The named operations over the channel buffer, the two streams and the registers: the primitives
of 00_scope.md R7, the accessors, `Construct`, the moves of the environment, and the one way an error leaves a
frame (60_exceptions.md R168). -/

namespace Sys2Proof.Machine

/-- Goes on with `f` where the first part answers; a fault or a refusal ends both. -/
def andThen {α β : Type} (r : Host.Outcome α Fault Refusal) (f : α → Host.Outcome β Fault Refusal) :
    Host.Outcome β Fault Refusal :=
  match r with
  | .next a => f a
  | .fault e => .fault e
  | .refused e => .refused e

/-! ## The channel buffer (20_memory.md R30) -/

/-- What an unlisted index reads as: the buffer is "zero-initialized at construction" (10_state.md R19). -/
def Memory.unlisted : Byte := 0

/-- The byte at an index. -/
def Memory.read : Memory → Nat → Byte
  | [], _ => Memory.unlisted
  | (b, w) :: rest, a => if b = a then w else Memory.read rest a

/-- A cell in front of cells of higher addresses, left out when it holds what an unlisted address reads as. -/
def Memory.push (a : Nat) (v : Byte) (m : Memory) : Memory :=
  if v = Memory.unlisted then m else (a, v) :: m

/-- Puts a byte at an index and keeps the canonical form. -/
def Memory.write : Memory → Nat → Byte → Memory
  | [], a, v => Memory.push a v []
  | (b, w) :: rest, a, v =>
    if a < b then Memory.push a v ((b, w) :: rest)
    else if a = b then Memory.push a v rest
    else (b, w) :: Memory.write rest a v

/-- The canonical form: addresses rise strictly and no entry equals what an unlisted address reads as. -/
def Memory.wf : Memory → Bool
  | [] => true
  | (a, v) :: rest => decide (v ≠ Memory.unlisted) && rest.all (fun c => decide (a < c.1)) && Memory.wf rest

/-- Every listed index is below `n`. -/
def Memory.below (n : Nat) (m : Memory) : Bool := m.all (fun c => decide (c.1 < n))

/-- `ChanWrite(i, v)`: bounds-checked; an index of `N` or more changes nothing
(44_channel_buffer_and_accessors.md R150, 60_exceptions.md R166). -/
def chanWrite (i : Nat) (v : Byte) (s : State) : State :=
  if i < s.capacity then { s with chan := s.chan.write i v } else s

/-- `ChanRead1(c)`: channel numbers run from 1 to N; outside them the spec gives no result (R151, R165). -/
def chanRead1 (c : Nat) (s : State) : Host.Outcome Byte Fault Refusal :=
  if 1 ≤ c ∧ c ≤ s.capacity then .next (s.chan.read (c - 1)) else .fault (.readOutOfRange c)

/-! ## The streams (20_memory.md R34 to R36) -/

/-- `RxAvail()` (R34). -/
def rxAvail (s : State) : Nat := s.rx.length

/-- `RxRead1()` (R35). -/
def rxRead1 (s : State) : Host.Outcome (Byte × State) Fault Refusal :=
  match s.rx with
  | b :: rest => .next (b, { s with rx := rest })
  | [] => .fault .rxUnderrun

/-- `RxReadN(n)` (R35). -/
def rxReadN (n : Nat) (s : State) : Host.Outcome (List Byte × State) Fault Refusal :=
  if n ≤ s.rx.length then .next (s.rx.take n, { s with rx := s.rx.drop n }) else .fault .rxUnderrun

/-- `TxWriteN(bytes)` (R36). -/
def txWriteN (bytes : List Byte) (s : State) : State := { s with tx := s.tx ++ bytes }

/-- `TxWrite1(b)` (R36). -/
def txWrite1 (b : Byte) (s : State) : State := txWriteN [b] s

/-! ## Registers -/

/-- `firmware_version`: hard-wired, reads as the constant in every state (10_state.md R17; log 23). -/
def State.firmwareVersion (_ : State) : Half := Config.fwVersion

/-- Hands a value to the caller (the caller's record, log 24). -/
def report (o : Observation) (s : State) : State := { s with observed := s.observed ++ [o] }

/-! ## Errors (60_exceptions.md R160 to R169) -/

/-- The one thing an oversized LENGTH and a wrong END do to the block: `state <- Idle`. Nothing is saved,
nothing is undone, nothing is reported, and there is no return from it (R162, R163, R168, R169). -/
def abandonFrame (s : State) : State := { s with parse := .idle }

/-! ## Operations of the caller other than `Process` and `UploadDmx` (00_scope.md R8) -/

/-- `ReadChannel(c)` (R151). -/
def readChannel (c : Nat) (s : State) : Host.Outcome State Fault Refusal :=
  andThen (chanRead1 c s) fun v => .next (report (.channel c v) s)

/-- The tuple `GetParameters` returns (R152). -/
def snapshot (s : State) : Snapshot := ⟨s.firmwareVersion, s.breakTime, s.mabTime, s.rate⟩

/-- `GetParameters()` (R152). -/
def getParameters (s : State) : State := report (.parameters (snapshot s)) s

/-- `Construct(N, SERIAL, transport)`: every register of the block at its reset value; `rx` and `tx` are not
touched (70_reset_and_hazards.md R180; log 32). -/
def construct (capacity : Nat) (serial : Serial) (s : State) : State :=
  { s with
    parse := .idle
    label := .invalid
    length := 0
    received := 0
    cfgSize := 0
    breakTime := Config.breakDefault
    mabTime := Config.mabDefault
    rate := Config.rateDefault
    serial := serial
    capacity := capacity
    chan := [] }

/-! ## Moves of the environment (20_memory.md R37) -/

/-- The host's bytes reach the tail of `rx`. -/
def hostSends (bytes : List Byte) (s : State) : State := { s with rx := s.rx ++ bytes }

/-- The environment takes up to `n` bytes from the head of `tx`. -/
def hostTakes (n : Nat) (s : State) : State := { s with tx := s.tx.drop n }

end Sys2Proof.Machine
end

