-- ==== Sys2Proof/Machine/Operands.lean ====
section
/-! DEFINITION. What the operand bytes of a message mean: the payload layouts of 30_encoding.md R57, as effects
of a payload on the registers and the channel buffer (41_payload_handlers.md R96), and the parameter block of
R58. -/

namespace Sys2Proof.Machine

/-- `Serialize(params)`: version low, version high, break time, mark-after-break time, rate (R58; the order of
the version bytes is R39 (a), the spec's decision D10, log 11). -/
def serialize (s : State) : List Byte :=
  [loByte s.firmwareVersion, hiByte s.firmwareVersion, s.breakTime, s.mabTime, s.rate]

/-- `SERIAL[0..3]` in index order (R39 (c), R133; the spec's decision D12, log 11). -/
def Serial.bytes (n : Serial) : List Byte := [n.b0, n.b1, n.b2, n.b3]

/-- The two-byte user-configuration size (R57, R92); its first byte is the low one (R39 (b), the spec's
decision D11, log 11). -/
def storeConfigSize (b0 b1 : Byte) (s : State) : State := { s with cfgSize := le16 b0 b1 }

/-- The three parameter bytes of a parameter block, which change together (R57, R93). -/
def storeParameters (breakTime mabTime rate : Byte) (s : State) : State :=
  { s with breakTime := breakTime, mabTime := mabTime, rate := rate }

/-- Writes bytes to the channels from internal index `i` upward (R94, R150). -/
def writeChannels : Nat → List Byte → State → State
  | _, [], s => s
  | i, b :: rest, s => writeChannels (i + 1) rest (chanWrite i b s)

/-! The effect of a whole payload (R96), one for each handler. -/

/-- Labels whose payload is counted and discarded (R91). -/
def discardPayload (_ : List Byte) (s : State) : State := s

/-- get_widget_parameters: the two bytes taken are the size; with fewer the size stays (R92). -/
def configPayload : List Byte → State → State
  | [b0, b1], s => storeConfigSize b0 b1 s
  | _, s => s

/-- store_widget_parameters: payload bytes 2, 3 and 4; with fewer than five nothing is stored (R93). -/
def parameterPayload : List Byte → State → State
  | _ :: _ :: breakTime :: mabTime :: rate :: _, s => storeParameters breakTime mabTime rate s
  | _, s => s

/-- send_dmx_data: the byte at payload offset `k`, `k >= 1`, goes to internal index `k - 1`; the start code at
offset 0 goes nowhere (R94). -/
def channelPayload (payload : List Byte) (s : State) : State := writeChannels 0 payload.tail s

end Sys2Proof.Machine
end

