-- ==== Sys2Proof/Machine/Encoder.lean ====
section
/-! DEFINITION. The packet encoder (43_encoder.md): the frame builder, and the meanings of the three outbound
rows of the table. -/

namespace Sys2Proof.Machine

/-- The LENGTH field of an outbound frame: payload plus padding, reduced to 16 bits (R131; the spec's decision
D15, log 14). -/
def outboundLength (payload : List Byte) (padding : Nat) : Half := BitVec.ofNat 16 (payload.length + padding)

/-- `SendFrame(l, p, z)` (R130). -/
def sendFrame (label : Byte) (payload : List Byte) (padding : Nat) (s : State) : State :=
  let len := outboundLength payload padding
  txWrite1 Config.endByte <|
    txWriteN (List.replicate padding 0) <|
      txWriteN payload <|
        txWrite1 (hiByte len) <|
          txWrite1 (loByte len) <|
            txWrite1 label <|
              txWrite1 Config.startByte s

/-- The parameter reply: the current parameters, padded with `cfg_size` zero bytes (R132). -/
def sendParameterReply (s : State) : State :=
  sendFrame Config.parameterReplyLabel (serialize s) s.cfgSize.toNat s

/-- The serial reply (R133). -/
def sendSerialReply (s : State) : State := sendFrame Config.serialReplyLabel s.serial.bytes 0 s

/-- `UploadDmx(v, data)` (R135). -/
def uploadDmx (valid : Bool) (data : List Byte) (s : State) : State :=
  sendFrame Config.notificationLabel ([Config.validFlagByte valid, 0x00] ++ data) 0 s

/-- PARAMETER_REPLY (R132). -/
def execParameterReply (s : State) : Host.Outcome State Fault Refusal := .next (sendParameterReply s)

/-- SERIAL_REPLY (R133). -/
def execSerialReply (s : State) : Host.Outcome State Fault Refusal := .next (sendSerialReply s)

/-- DMX_NOTIFICATION (R135). -/
def execDmxNotification (valid : Bool) (data : List Byte) (s : State) : Host.Outcome State Fault Refusal :=
  .next (uploadDmx valid data s)

end Sys2Proof.Machine
end

