-- ==== Sys2Proof/Machine/Flags.lean ====
section
/-! DEFINITION. The block has no flags and no condition codes (10_state.md R21). What stands in their place is
the event a `Process` invocation returns (R20): which label's completion returns which event, how the caller
receives it, and the convenience codes of R11 and R20. -/

namespace Sys2Proof.Machine

/-- The event of a completed message (42_message_dispatch.md R110). -/
def eventOf : Label → Event
  | .getWidgetParameters => .parametersRequested
  | .getWidgetSerial => .serialRequested
  | .storeWidgetParameters => .parametersChanged
  | .sendDmxData => .dmxData
  | .invalid | .reprogramFirmware | .programFlashPage | .receiveDmxData => .none

/-- Hands an event to the caller; `none` leaves no trace (R20, R193; log 24). -/
def reportEvent (e : Event) (s : State) : State :=
  match e with
  | .none => s
  | .parametersRequested | .parametersChanged | .serialRequested | .dmxData => report (.event e) s

/-- The numeric code of an event, where one is wanted (R20; the spec's decision D16, log 22). -/
def Event.code : Event → Nat
  | .none => 0
  | .parametersRequested => 1
  | .parametersChanged => 2
  | .serialRequested => 3
  | .dmxData => 4

/-- The numeric code of a parse state, where one is wanted (R11; the spec's decision D16, log 22). -/
def parseCode : ParseState → Nat
  | .idle => 0
  | .awaitingLabel => 1
  | .awaitingLength => 2
  | .awaitingPayload => 3
  | .awaitingEnd => 4

end Sys2Proof.Machine
end

