-- ==== Sys2Proof/Machine/Handlers.lean ====
section
/-! DEFINITION. The per-label payload handlers (41_payload_handlers.md R90 to R95), each one invocation's worth.
`StepPayload` calls them only when a byte is waiting and `received < length`. -/

namespace Sys2Proof.Machine

/-- `HDiscard`: one byte is read, counted and forgotten (R91). -/
def hDiscard (s : State) : Host.Outcome State Fault Refusal :=
  andThen (rxRead1 s) fun (_, s1) => .next { s1 with received := s1.received + 1 }

/-- `HGetParams` (R92; LENGTH other than 2 by the spec's decision D6, log 7). -/
def hGetParams (s : State) : Host.Outcome State Fault Refusal :=
  if Config.sizeFieldSize ≤ s.length.toNat then
    if rxAvail s < Config.sizeFieldSize then .next s
    else
      andThen (rxReadN Config.sizeFieldSize s) fun
        | ([b0, b1], s1) =>
          .next { storeConfigSize b0 b1 s1 with
            received := BitVec.ofNat 16 Config.sizeFieldSize, parse := .awaitingEnd }
        | _ => .fault .rxUnderrun
  else hDiscard s

/-- `HStoreParams` (R93; the block read and LENGTH below 5 by the spec's decision D7, log 8). -/
def hStoreParams (s : State) : Host.Outcome State Fault Refusal :=
  if Config.parameterBlockSize ≤ s.length.toNat ∧ s.received = 0 then
    if rxAvail s < Config.parameterBlockSize then .next s
    else
      andThen (rxReadN Config.parameterBlockSize s) fun
        | ([_, _, b, m, r], s1) =>
          .next { storeParameters b m r s1 with received := BitVec.ofNat 16 Config.parameterBlockSize }
        | _ => .fault .rxUnderrun
  else hDiscard s

/-- The number of bytes `HDmx` takes when DMX_BURST asks for `k`: at least 1, at most
`min(RxAvail(), length - received)` (R94; any number in that range is the value for some `k`, log 9). -/
def burst (k : Nat) (s : State) : Nat :=
  max 1 (min k (min (rxAvail s) (s.length.toNat - s.received.toNat)))

/-- The loop of `HDmx` (R94): the byte at payload offset 0 goes nowhere, the one at offset `j >= 1` goes to
internal index `j - 1`. -/
def hDmxLoop : Nat → State → Host.Outcome State Fault Refusal
  | 0, s => .next s
  | n + 1, s =>
    andThen (rxRead1 s) fun (b, s1) =>
      let s2 := if 1 ≤ s1.received.toNat then chanWrite (s1.received.toNat - 1) b s1 else s1
      hDmxLoop n { s2 with received := s2.received + 1 }

/-- `HDmx` with DMX_BURST asking for `k` bytes (R94). -/
def hDmx (k : Nat) (s : State) : Host.Outcome State Fault Refusal := hDmxLoop (burst k s) s

/-- `Handler(label)` (R90; the rows for receive_dmx_data and get_widget_serial by the spec's decision D5,
log 6). -/
def handler (k : Nat) (s : State) : Host.Outcome State Fault Refusal :=
  match s.label with
  | .getWidgetParameters => hGetParams s
  | .storeWidgetParameters => hStoreParams s
  | .sendDmxData => hDmx k s
  | .invalid | .reprogramFirmware | .programFlashPage | .receiveDmxData | .getWidgetSerial => hDiscard s

end Sys2Proof.Machine
end

