-- ==== Sys2Proof/Machine/Framing.lean ====
section
/-! DEFINITION. The packet framing state machine (40_framing_fsm.md R70 to R76) and message dispatch
(42_message_dispatch.md R110). One call of `process` is one invocation of `Process`: an indivisible step that
answers the state after it and the event it returns (00_scope.md R8). `k` is what DMX_BURST asks for. -/

namespace Sys2Proof.Machine

/-- `Dispatch(label)`: the reply, if the message has one, and then the event (R110, R134). -/
def dispatchMessage (l : Label) (s : State) : State × Event :=
  match l with
  | .getWidgetParameters => (sendParameterReply s, eventOf l)
  | .getWidgetSerial => (sendSerialReply s, eventOf l)
  | .storeWidgetParameters | .sendDmxData => (s, eventOf l)
  | .invalid | .reprogramFirmware | .programFlashPage | .receiveDmxData => (s, eventOf l)

/-- `StepIdle` (R71, R161). -/
def stepIdle (s : State) : Host.Outcome (State × Event) Fault Refusal :=
  andThen (rxRead1 s) fun (b, s1) =>
    .next (if b = Config.startByte then { s1 with parse := .awaitingLabel } else s1, .none)

/-- `StepLabel` (R72, R164). -/
def stepLabel (s : State) : Host.Outcome (State × Event) Fault Refusal :=
  andThen (rxRead1 s) fun (b, s1) => .next ({ s1 with label := coerce b, parse := .awaitingLength }, .none)

/-- `StepLength` (R73, R162). -/
def stepLength (s : State) : Host.Outcome (State × Event) Fault Refusal :=
  if rxAvail s < 2 then .next (s, .none)
  else
    andThen (rxReadN 2 s) fun
      | ([b0, b1], s1) =>
        if Config.maxLen < (le16 b0 b1).toNat then .next (abandonFrame s1, .none)
        else .next ({ s1 with length := le16 b0 b1, received := 0, parse := .awaitingPayload }, .none)
      | _ => .fault .rxUnderrun

/-- `StepPayload` (R74): the completion test comes first. -/
def stepPayload (k : Nat) (s : State) : Host.Outcome (State × Event) Fault Refusal :=
  if s.received = s.length then .next ({ s with parse := .awaitingEnd }, .none)
  else andThen (handler k s) fun s1 => .next (s1, .none)

/-- `StepEnd` (R75, R163). -/
def stepEnd (s : State) : Host.Outcome (State × Event) Fault Refusal :=
  andThen (rxRead1 s) fun (b, s1) =>
    if b = Config.endByte then .next (dispatchMessage s1.label { s1 with parse := .idle })
    else .next (abandonFrame s1, .none)

/-- `Process()` (R70). -/
def process (k : Nat) (s : State) : Host.Outcome (State × Event) Fault Refusal :=
  if rxAvail s = 0 then .next (s, .none)
  else
    match s.parse with
    | .idle => stepIdle s
    | .awaitingLabel => stepLabel s
    | .awaitingLength => stepLength s
    | .awaitingPayload => stepPayload k s
    | .awaitingEnd => stepEnd s

/-- One invocation with its event handed to the caller. -/
def poll (k : Nat) (s : State) : Host.Outcome State Fault Refusal :=
  andThen (process k s) fun (s1, e) => .next (reportEvent e s1)

/-- Invocations one after another, each with its own choice of DMX_BURST. -/
def polls : List Nat → State → Host.Outcome State Fault Refusal
  | [], s => .next s
  | k :: ks, s => andThen (poll k s) (polls ks)

/-- One invocation of `Process` by the caller, with the next free choice of DMX_BURST (R94, D8; log 9). -/
def invoke (s : State) : Host.Outcome State Fault Refusal :=
  poll (Config.dmxBurst s.choices) { s with choices := s.choices + 1 }

end Sys2Proof.Machine
end

