-- ==== Sys2Proof/Machine/Delims.lean ====
section
/-! DEFINITION. The meanings of the two DELIM rows of the table. Each has its meaning in one parse state only
(30_encoding.md R51); in any other the byte is part of the frame in progress or noise, and the block goes on by
one invocation (log 27). -/

namespace Sys2Proof.Machine

/-- START: recognised in `Idle`, it begins a frame (R71). -/
def execStart (s : State) : Host.Outcome State Fault Refusal :=
  if s.parse = .idle then andThen (rxRead1 s) fun (_, s1) => .next { s1 with parse := .awaitingLabel }
  else invoke s

/-- END: tested in `AwaitingEnd`, it completes the message (R75, R110). -/
def execEndDelim (s : State) : Host.Outcome State Fault Refusal :=
  if s.parse = .awaitingEnd then
    andThen (rxRead1 s) fun (_, s1) =>
      let (s2, event) := dispatchMessage s1.label { s1 with parse := .idle }
      .next (reportEvent event s2)
  else invoke s

end Sys2Proof.Machine
end

