-- ==== Sys2Proof/Machine/Frames.lean ====
section
/-! DEFINITION. The meanings of the sixteen inbound rows of the table: what a whole frame does when it is met
in `Idle` (42_message_dispatch.md R111 to R120, 41_payload_handlers.md R96). They are written from those rules
and not from the steps of Machine/Framing.lean; that both say the same is a statement of its own
(40_framing_fsm.md R82). -/

namespace Sys2Proof.Machine

/-- A frame met in `Idle` (R82, R96, R120): its bytes are taken from `rx`; an oversized LENGTH ends it before
any payload is taken; otherwise the payload has its effect, and then the byte where END is due decides between
dispatch and nothing. The parse registers keep what the frame left in them, dead values in `Idle` (R75; log 13).
In any other parse state these bytes are no frame of their own: the block goes on by one invocation with
whatever frame it is in (R51; log 27). -/
def runFrame (l : Label) (payloadEffect : List Byte → State → State) (body : Body) (s : State) :
    Host.Outcome State Fault Refusal :=
  if s.parse = .idle then
    match body with
    | .oversized _ =>
      andThen (rxReadN 4 s) fun (_, s1) => .next (abandonFrame { s1 with label := l })
    | .framed len payload e =>
      andThen (rxReadN (payload.length + 5) s) fun (_, s1) =>
        let s2 := payloadEffect payload
          { s1 with label := l, length := len, received := BitVec.ofNat 16 payload.length }
        if e = Config.endByte then
          let (s3, event) := dispatchMessage l { s2 with parse := .idle }
          .next (reportEvent event s3)
        else .next (abandonFrame s2)
  else invoke s

/-- INVALID (R111). -/
def execInvalid (body : Body) (s : State) : Host.Outcome State Fault Refusal :=
  runFrame .invalid discardPayload body s

/-- REPROGRAM_FIRMWARE (R112). -/
def execReprogramFirmware (body : Body) (s : State) : Host.Outcome State Fault Refusal :=
  runFrame .reprogramFirmware discardPayload body s

/-- PROGRAM_FLASH_PAGE (R113). -/
def execProgramFlashPage (body : Body) (s : State) : Host.Outcome State Fault Refusal :=
  runFrame .programFlashPage discardPayload body s

/-- GET_WIDGET_PARAMETERS (R114). -/
def execGetWidgetParameters (body : Body) (s : State) : Host.Outcome State Fault Refusal :=
  runFrame .getWidgetParameters configPayload body s

/-- STORE_WIDGET_PARAMETERS (R115). -/
def execStoreWidgetParameters (body : Body) (s : State) : Host.Outcome State Fault Refusal :=
  runFrame .storeWidgetParameters parameterPayload body s

/-- RECEIVE_DMX_DATA inbound (R116; log 6). -/
def execReceiveDmxData (body : Body) (s : State) : Host.Outcome State Fault Refusal :=
  runFrame .receiveDmxData discardPayload body s

/-- SEND_DMX_DATA (R117). -/
def execSendDmxData (body : Body) (s : State) : Host.Outcome State Fault Refusal :=
  runFrame .sendDmxData channelPayload body s

/-- UNSUPPORTED_07: coerced to `invalid` (R119; log 5). -/
def execUnsupported07 (body : Body) (s : State) : Host.Outcome State Fault Refusal :=
  runFrame .invalid discardPayload body s

/-- UNSUPPORTED_08_09: coerced to `invalid`, the raw byte is not kept (R55, R119; log 5). -/
def execUnsupported08To09 (_ : BitVec 1) (body : Body) (s : State) : Host.Outcome State Fault Refusal :=
  runFrame .invalid discardPayload body s

/-- GET_WIDGET_SERIAL (R118; log 6). -/
def execGetWidgetSerial (body : Body) (s : State) : Host.Outcome State Fault Refusal :=
  runFrame .getWidgetSerial discardPayload body s

/-- UNSUPPORTED_0B (R119). -/
def execUnsupported0B (body : Body) (s : State) : Host.Outcome State Fault Refusal :=
  runFrame .invalid discardPayload body s

/-- UNSUPPORTED_0C_0F (R119). -/
def execUnsupported0CTo0F (_ : BitVec 2) (body : Body) (s : State) : Host.Outcome State Fault Refusal :=
  runFrame .invalid discardPayload body s

/-- UNSUPPORTED_10_1F (R119). -/
def execUnsupported10To1F (_ : BitVec 4) (body : Body) (s : State) : Host.Outcome State Fault Refusal :=
  runFrame .invalid discardPayload body s

/-- UNSUPPORTED_20_3F (R119). -/
def execUnsupported20To3F (_ : BitVec 5) (body : Body) (s : State) : Host.Outcome State Fault Refusal :=
  runFrame .invalid discardPayload body s

/-- UNSUPPORTED_40_7F (R119). -/
def execUnsupported40To7F (_ : BitVec 6) (body : Body) (s : State) : Host.Outcome State Fault Refusal :=
  runFrame .invalid discardPayload body s

/-- UNSUPPORTED_80_FF (R119). -/
def execUnsupported80ToFF (_ : BitVec 7) (body : Body) (s : State) : Host.Outcome State Fault Refusal :=
  runFrame .invalid discardPayload body s

end Sys2Proof.Machine
end

