-- ==== Sys2Proof/Machine/Dispatch.lean ====
section
/-! DEFINITION. One arm per row of spec/opcode_table.json. -/

namespace Sys2Proof.Machine

def exec (i : Instr) (s : State) : Host.Outcome State Fault Refusal :=
  match i with
  | .invalid body => Sys2Proof.Machine.execInvalid body s
  | .reprogramFirmware body => Sys2Proof.Machine.execReprogramFirmware body s
  | .programFlashPage body => Sys2Proof.Machine.execProgramFlashPage body s
  | .getWidgetParameters body => Sys2Proof.Machine.execGetWidgetParameters body s
  | .storeWidgetParameters body => Sys2Proof.Machine.execStoreWidgetParameters body s
  | .receiveDmxData body => Sys2Proof.Machine.execReceiveDmxData body s
  | .sendDmxData body => Sys2Proof.Machine.execSendDmxData body s
  | .unsupported07 body => Sys2Proof.Machine.execUnsupported07 body s
  | .unsupported08To09 low body => Sys2Proof.Machine.execUnsupported08To09 low body s
  | .getWidgetSerial body => Sys2Proof.Machine.execGetWidgetSerial body s
  | .unsupported0B body => Sys2Proof.Machine.execUnsupported0B body s
  | .unsupported0CTo0F low body => Sys2Proof.Machine.execUnsupported0CTo0F low body s
  | .unsupported10To1F low body => Sys2Proof.Machine.execUnsupported10To1F low body s
  | .unsupported20To3F low body => Sys2Proof.Machine.execUnsupported20To3F low body s
  | .unsupported40To7F low body => Sys2Proof.Machine.execUnsupported40To7F low body s
  | .unsupported80ToFF low body => Sys2Proof.Machine.execUnsupported80ToFF low body s
  | .parameterReply => Sys2Proof.Machine.execParameterReply s
  | .serialReply => Sys2Proof.Machine.execSerialReply s
  | .dmxNotification valid data => Sys2Proof.Machine.execDmxNotification valid data s
  | .start => Sys2Proof.Machine.execStart s
  | .endDelim => Sys2Proof.Machine.execEndDelim s

end Sys2Proof.Machine
end

