-- ==== Sys2Proof/Machine/Inputs.lean ====
section
/-! DEFINITION. Fetching an instruction from `rx`, and what each move of the caller and of the environment does
(00_scope.md R8, 20_memory.md R37, 70_reset_and_hazards.md R181). -/

namespace Sys2Proof.Machine

/-- The instruction at the read position: what the decoder reads from `rx` where the block stands. -/
def fetch (s : State) : Option Instr :=
  match decodeAt s.parse s.rx with
  | .ok (i, _) => some i
  | .error _ => none

/-- The caller polls until the instruction at the read position has run, nothing else coming between (log 2).
Where there is none (`rx` is empty, the next byte is noise or a wrong END, or a frame is half decoded) that is
one invocation of `Process`. -/
def runInstr (s : State) : Host.Outcome State Fault Refusal :=
  match fetch s with
  | some i => exec i s
  | none => invoke s

/-- One move, whole: no other begins before it ends (R8, R43). -/
def perform (x : Input) (s : State) : Host.Outcome State Fault Refusal :=
  match x with
  | .construct capacity serial => .next (construct capacity serial s)
  | .process => invoke s
  | .uploadDmx valid data => exec (.dmxNotification valid data) s
  | .readChannel c => readChannel c s
  | .getParameters => .next (getParameters s)
  | .hostSends bytes => .next (hostSends bytes s)
  | .hostTakes n => .next (hostTakes n s)
  | .runInstr => runInstr s

/-- A table word's bytes as all that is waiting in `rx`, met where its kind of row is recognised, the caller
polling next (log 3, 26). -/
def placeWord (s : State) (nbits w : Nat) : State :=
  { s with
    parse := (tableBytes nbits w).1
    rx := (tableBytes nbits w).2
    inputs := .runInstr :: s.inputs }

end Sys2Proof.Machine
end

