-- ==== Sys2Proof/Machine/Step.lean ====
section
/-! DEFINITION. One step of the machine: the next move of the caller or of the environment, performed whole
(00_scope.md R8). With no move listed the caller polls `Process`, as 70_reset_and_hazards.md R181 (3) has it do
for as long as the block is in use (log 1). -/

namespace Sys2Proof.Machine

def step (s : State) : Host.Outcome State Fault Refusal :=
  match s.inputs with
  | [] => invoke s
  | x :: rest => perform x { s with inputs := rest }

/-- `s` with a word of the opcode table where the next step fetches its instruction (log 3). -/
def State.withFetchWord (s : State) (nbits w : Nat) : State := placeWord s nbits w

end Sys2Proof.Machine
end

