-- ==== Sys2Proof/Safety.lean ====
section
/-! DEFINITION. What counts as a safe run, in the terms the statements use: the invariant (10_state.md R15), the
end of a run (70_reset_and_hazards.md R193), how bytes may be delivered (40_framing_fsm.md R81), and
which frames complete (42_message_dispatch.md R120). -/

namespace Sys2Proof

/-- What follows START and LABEL, where the instruction is an inbound frame. -/
def Instr.body? : Instr → Option Body
  | .invalid body | .reprogramFirmware body | .programFlashPage body | .getWidgetParameters body
  | .storeWidgetParameters body | .receiveDmxData body | .sendDmxData body | .unsupported07 body
  | .unsupported08To09 _ body | .getWidgetSerial body | .unsupported0B body | .unsupported0CTo0F _ body
  | .unsupported10To1F _ body | .unsupported20To3F _ body | .unsupported40To7F _ body
  | .unsupported80ToFF _ body => some body
  | .parameterReply | .serialReply | .dmxNotification _ _ | .start | .endDelim => none

/-- An inbound frame: one of the table's FRAME_IN rows. -/
def Instr.isFrame (i : Instr) : Bool := i.body?.isSome

/-- The eight rows of coerced labels (30_encoding.md R64). -/
def Instr.isUnsupported : Instr → Bool
  | .unsupported07 _ | .unsupported08To09 _ _ | .unsupported0B _ | .unsupported0CTo0F _ _
  | .unsupported10To1F _ _ | .unsupported20To3F _ _ | .unsupported40To7F _ _ | .unsupported80ToFF _ _ => true
  | _ => false

/-- The frame with another body. -/
def Instr.mapBody (f : Body → Body) : Instr → Instr
  | .invalid body => .invalid (f body)
  | .reprogramFirmware body => .reprogramFirmware (f body)
  | .programFlashPage body => .programFlashPage (f body)
  | .getWidgetParameters body => .getWidgetParameters (f body)
  | .storeWidgetParameters body => .storeWidgetParameters (f body)
  | .receiveDmxData body => .receiveDmxData (f body)
  | .sendDmxData body => .sendDmxData (f body)
  | .unsupported07 body => .unsupported07 (f body)
  | .unsupported08To09 low body => .unsupported08To09 low (f body)
  | .getWidgetSerial body => .getWidgetSerial (f body)
  | .unsupported0B body => .unsupported0B (f body)
  | .unsupported0CTo0F low body => .unsupported0CTo0F low (f body)
  | .unsupported10To1F low body => .unsupported10To1F low (f body)
  | .unsupported20To3F low body => .unsupported20To3F low (f body)
  | .unsupported40To7F low body => .unsupported40To7F low (f body)
  | .unsupported80ToFF low body => .unsupported80ToFF low (f body)
  | .parameterReply => .parameterReply
  | .serialReply => .serialReply
  | .dmxNotification valid data => .dmxNotification valid data
  | .start => .start
  | .endDelim => .endDelim

/-- A frame that completes: LENGTH accepted and END where it is due (R120). -/
def Body.completes : Body → Bool
  | .oversized _ => false
  | .framed _ _ e => e == Config.endByte

/-- The same frame with a right END (42_message_dispatch.md R120 compares the two). -/
def Body.mended : Body → Body
  | .oversized len => .oversized len
  | .framed len payload _ => .framed len payload Config.endByte

end Sys2Proof

namespace Sys2Proof.Machine

/-- The frame `i` stands at the read position, in `Idle`, with `rest` behind it. -/
def State.meets (s : State) (i : Instr) (rest : List Byte) : Prop :=
  s.parse = .idle ∧ s.rx = encode i ++ rest

/-- The invariant: the channel buffer is in canonical form and inside its capacity (R19);
`0 <= received <= length <= 600` (R15); a get_widget_parameters payload is either untouched or used up, since
its handler leaves `AwaitingPayload` when it reads the size (41_payload_handlers.md R92). -/
abbrev State.Inv (s : State) : Prop :=
  s.chan.wf = true ∧ s.chan.below s.capacity = true ∧
    s.received.toNat ≤ s.length.toNat ∧ s.length.toNat ≤ Config.maxLen ∧
    (s.parse = .awaitingPayload → s.label = .getWidgetParameters → s.received = 0 ∨ s.received = s.length)

/-- The two states stand at the same place of the same inbound bytes. -/
abbrev State.sameDecoding (s t : State) : Prop :=
  s.parse = t.parse ∧ s.label = t.label ∧ s.length = t.length ∧ s.received = t.received ∧ s.rx = t.rx

/-- What every frame met in `Idle` leaves whatever its label does: its bytes are gone from `rx`, and the parse
registers hold what it put there (R72, R73, R75). -/
def State.afterFrame (s : State) (l : Label) (body : Body) (rest : List Byte) : State :=
  match body with
  | .oversized _ => { s with rx := rest, label := l }
  | .framed len payload _ =>
    { s with rx := rest, label := l, length := len, received := BitVec.ofNat 16 payload.length }

/-- The three waiting conditions (40_framing_fsm.md R79 (a), (b), (c)). -/
def State.waiting (s : State) : Bool :=
  match s.parse, s.label with
  | .awaitingLength, _ => s.rx.length == 1
  | .awaitingPayload, .getWidgetParameters =>
    s.received != s.length && decide (Config.sizeFieldSize ≤ s.length.toNat) && s.rx.length == 1
  | .awaitingPayload, .storeWidgetParameters =>
    decide (Config.parameterBlockSize ≤ s.length.toNat) && s.received == 0 && decide (1 ≤ s.rx.length) &&
      decide (s.rx.length < Config.parameterBlockSize)
  | _, _ => false

/-- A run is quiescent when `rx` is empty or the block is in a waiting condition (R193). -/
def State.quiescent (s : State) : Bool := s.rx.length == 0 || s.waiting

/-- One move of a delivery: a chunk of bytes reaches `rx`, or the caller invokes `Process`, DMX_BURST asking
for `k` (40_framing_fsm.md R81). -/
inductive Delivery where
  | chunk (bytes : List Byte)
  | poll (k : Nat)
deriving DecidableEq, Repr

/-- All the bytes a delivery brings, in order. -/
def delivered : List Delivery → List Byte
  | [] => []
  | .chunk bytes :: rest => bytes ++ delivered rest
  | .poll _ :: rest => delivered rest

/-- The state after a delivery. -/
def deliver : List Delivery → State → Host.Outcome State Fault Refusal
  | [], s => .next s
  | .chunk bytes :: rest, s => deliver rest (hostSends bytes s)
  | .poll k :: rest, s => andThen (poll k s) (deliver rest)

end Sys2Proof.Machine
end

