-- ==== Sys2Proof/Certificates/Slice0/Obligations.lean ====
section
/-! DEFINITION. The statements for the provers. Each docstring names the rule of spec/ it formalises; where a
clause rests on a decision the spec marks as its own (D<n>) or on a choice of the model (log <n>), it says so.
`k` and `ks` are what DMX_BURST asks for: every statement holds whatever they are (log 9). -/

open Sys2Proof Sys2Proof.Machine

/-! ## The step -/

/-- R8, R181: when the caller polls for an instruction and the bytes of `rx` decode to one where the block
stands, the step is that instruction's meaning (log 2). -/
def Obligations.StepRunsDecodedInstruction : Prop :=
  ∀ (s : State) (i : Instr) (rest : List Byte) (xs : List Input),
    s.inputs = .runInstr :: xs → decodeAt s.parse s.rx = .ok (i, rest) →
      step s = exec i { s with inputs := xs }

/-- A word of the opcode table placed for the next step is fetched and run by it (log 3, log 26). -/
def Obligations.PlacedTableWordIsRun : Prop :=
  ∀ (s : State) (nbits w : Nat) (i : Instr), decodeTableWord nbits w = some i →
    step (s.withFetchWord nbits w) = exec i { s.withFetchWord nbits w with inputs := s.inputs }

/-- R8, R70, R135, R181: what a step is for the moves that are not an accessor, a construction or the
environment's: with nothing listed the caller polls (log 1); an invocation of `Process` hands its event to the
caller; `UploadDmx` is the DMX_NOTIFICATION row. -/
def Obligations.StepPollsAndUploads : Prop :=
  ∀ (s : State) (xs : List Input),
    (s.inputs = [] →
      step s = andThen (process (Config.dmxBurst s.choices) { s with choices := s.choices + 1 })
        fun (t, e) => .next (reportEvent e t)) ∧
    (s.inputs = .process :: xs →
      step s = andThen
        (process (Config.dmxBurst s.choices) { s with inputs := xs, choices := s.choices + 1 })
        fun (t, e) => .next (reportEvent e t)) ∧
    ∀ (valid : Bool) (data : List Byte), s.inputs = .uploadDmx valid data :: xs →
      step s = exec (.dmxNotification valid data) { s with inputs := xs }

/-- R37: the environment appends bytes to the tail of `rx`, takes a prefix of `tx`, and does nothing else (that
these two are all it may do is the spec's decision D17, log 15; that they come as moves of a list is log 1). -/
def Obligations.EnvironmentMovesOnlyStreams : Prop :=
  ∀ (s : State) (xs : List Input) (bytes : List Byte) (n : Nat),
    (s.inputs = .hostSends bytes :: xs → step s = .next { s with inputs := xs, rx := s.rx ++ bytes }) ∧
    (s.inputs = .hostTakes n :: xs → step s = .next { s with inputs := xs, tx := s.tx.drop n })

/-- R180 with R24: `Construct` gives every register of the block its reset value and touches neither stream
(the values of `state`, `label`, `length`, `received` and `cfg_size` are the spec's decision D14, log 13). -/
def Obligations.ConstructGivesResetValues : Prop :=
  ∀ (s : State) (xs : List Input) (n : Nat) (serial : Serial),
    s.inputs = .construct n serial :: xs →
      ∃ t, step s = .next t ∧
        t.parse = .idle ∧ t.label = .invalid ∧ t.length = 0 ∧ t.received = 0 ∧ t.cfgSize = 0 ∧
        t.firmwareVersion = 0x0100 ∧ t.breakTime = 9 ∧ t.mabTime = 1 ∧ t.rate = 40 ∧
        t.serial = serial ∧ t.capacity = n ∧ (∀ i, t.chan.read i = 0) ∧
        t.rx = s.rx ∧ t.tx = s.tx ∧ t.observed = s.observed ∧ t.inputs = xs ∧ t.choices = s.choices

/-- R24: the state right after construction. The version, the three parameters and the zero buffer are the
source's; `Idle`, `invalid` and the zeros of the other registers are the spec's decision D14 (log 13); `N`,
SERIAL and the empty streams are the model's choice (log 15, 17, 18) and nothing is said of them here. -/
def Obligations.ResetStateValues : Prop :=
  State.reset.firmwareVersion = 0x0100 ∧ State.reset.breakTime = 9 ∧ State.reset.mabTime = 1 ∧
    State.reset.rate = 40 ∧ (∀ i, State.reset.chan.read i = 0) ∧
    State.reset.parse = .idle ∧ State.reset.label = .invalid ∧ State.reset.length = 0 ∧
    State.reset.received = 0 ∧ State.reset.cfgSize = 0

/-- R151: `ReadChannel(c)` returns `chan[c-1]` for `1 <= c <= N`, writes nothing of the block, and is a fault
outside that range (the fault is the spec's decision D21, log 20; the value returned goes to the caller's record,
the model's own, log 24). -/
def Obligations.ReadChannelInRangeOrFault : Prop :=
  ∀ (s : State) (xs : List Input) (c : Nat), s.inputs = .readChannel c :: xs →
    (1 ≤ c ∧ c ≤ s.capacity →
      step s = .next { s with
        inputs := xs, observed := s.observed ++ [.channel c (s.chan.read (c - 1))] }) ∧
    (c = 0 ∨ s.capacity < c → step s = .fault (.readOutOfRange c))

/-- R152: `GetParameters()` returns the version constant and the three parameters of the moment, and writes
nothing of the block. The value returned goes to the caller's record, the model's own (log 24). -/
def Obligations.GetParametersReturnsSnapshot : Prop :=
  ∀ (s : State) (xs : List Input), s.inputs = .getParameters :: xs →
    step s = .next { s with
      inputs := xs, observed := s.observed ++ [.parameters ⟨0x0100, s.breakTime, s.mabTime, s.rate⟩] }

/-- R165: the only fault a step can end in is `ReadOutOfRange(c)`, raised by `ReadChannel(c)` with `c = 0` or
`c > N`; the caller causes it, whatever the bytes on `rx`; `RxUnderrun` is not reached (that these are faults is
the spec's decision D21, log 20). That no step is refused is the model's own: it gives every row its meaning. -/
def Obligations.OnlyOutOfRangeReadFaults : Prop :=
  ∀ s : State,
    (∀ r, step s = .fault r ↔
      ∃ c xs, s.inputs = .readChannel c :: xs ∧ (c = 0 ∨ s.capacity < c) ∧ r = .readOutOfRange c) ∧
    ∀ r, step s ≠ .refused r

/-! ## Decoding -/

/-- R54, R64, R71, R75: words written out from the spec's encodings decode to their rows (tests V3, V12, V20,
V25, V30, V38 of 95_test_vectors.md). -/
def Obligations.WrittenOutWordsDecode : Prop :=
  decodeAt .idle [0x7E, 0x00, 0x01, 0x00, 0xAA, 0xE7] = .ok (.invalid (.framed 1 [0xAA] 0xE7), []) ∧
  decodeAt .idle [0x7E, 0x03, 0x02, 0x00, 0x04, 0x01, 0xE7] =
    .ok (.getWidgetParameters (.framed 2 [0x04, 0x01] 0xE7), []) ∧
  decodeAt .idle [0x7E, 0x04, 0x05, 0x00, 0x00, 0x00, 0x05, 0x02, 0x3C, 0xE7] =
    .ok (.storeWidgetParameters (.framed 5 [0x00, 0x00, 0x05, 0x02, 0x3C] 0xE7), []) ∧
  decodeAt .idle [0x7E, 0x06, 0x03, 0x00, 0x00, 0xFF, 0x80, 0xE7] =
    .ok (.sendDmxData (.framed 3 [0x00, 0xFF, 0x80] 0xE7), []) ∧
  decodeAt .idle [0x7E, 0x0A, 0x00, 0x00, 0xE7] = .ok (.getWidgetSerial (.framed 0 [] 0xE7), []) ∧
  decodeAt .idle [0x7E, 0x0B, 0x01, 0x00, 0x55, 0xE7] = .ok (.unsupported0B (.framed 1 [0x55] 0xE7), []) ∧
  decodeAt .idle [0x7E, 0xFF, 0x00, 0x00, 0xE7] = .ok (.unsupported80ToFF 0x7F (.framed 0 [] 0xE7), []) ∧
  decodeAt .idle [0x7E, 0x06, 0x59, 0x02, 0x00] = .ok (.sendDmxData (.oversized 601), [0x00]) ∧
  decodeAt .idle [0x7E] = .ok (.start, []) ∧ decodeAt .awaitingEnd [0xE7] = .ok (.endDelim, [])

/-- R64: the sixteen rows cover all 256 LABEL values once, each row selected by its mask and match (R65). -/
def Obligations.LabelRowsCoverEveryByteOnce : Prop :=
  ∀ (label : Byte) (r : LabelRow), label &&& r.mask = r.value ↔ rowOf label = r

/-- R55: the eight named codes are recognised and every other byte is coerced to `invalid` (0x07 to 0x09 by
the spec's decision D4, log 5). -/
def Obligations.CoercionKeepsOnlyNamedCodes : Prop :=
  (∀ l : Label, coerce l.code = l) ∧ ∀ b : Byte, (∀ l : Label, b ≠ l.code) → coerce b = .invalid

/-- R51: START is recognised only in `Idle` and END only in `AwaitingEnd`; inside a frame neither is a
delimiter. -/
def Obligations.DelimitersDecodeByPosition : Prop :=
  ∀ (p : ParseState) (bytes rest : List Byte),
    (decodeAt p bytes = .ok (.start, rest) → p = .idle ∧ bytes = 0x7E :: rest) ∧
    (decodeAt p bytes = .ok (.endDelim, rest) ↔ p = .awaitingEnd ∧ bytes = 0xE7 :: rest) ∧
    (p ≠ .idle → p ≠ .awaitingEnd → decodeAt p bytes = .error .insideFrame)

/-- R50, R53, R64: decoding the bytes of a well-formed frame gives the frame back, with every LABEL bit, LENGTH,
payload byte and END byte, and leaves what follows it. The forms a frame takes as an operand are the model's (log 31);
that a label 0x03 with LENGTH above 2 has two payload bytes before the byte where END is due is the spec's decision
D6 (R92, log 7). -/
def Obligations.DecodeOfEncodedFrame : Prop :=
  ∀ (i : Instr) (rest : List Byte), i.isFrame = true → wellFormed i = true →
    decodeAt .idle (encode i ++ rest) = .ok (i, rest)

/-- R50, R53: whatever whole frame the decoder reads is well formed and has exactly the bytes it was read from. The
forms a frame takes as an operand are the model's (log 31); that a label 0x03 with LENGTH above 2 has two payload
bytes before the byte where END is due is the spec's decision D6 (R92, log 7). -/
def Obligations.DecodedFrameIsItsBytes : Prop :=
  ∀ (bytes rest : List Byte) (i : Instr), decodeFrame bytes = .ok (i, rest) →
    i.isFrame = true ∧ wellFormed i = true ∧ bytes = encode i ++ rest

/-! ## The framing state machine -/

/-- R70: with `rx` empty an invocation changes nothing and returns `none`, in every parse state (the gate on
the step that reads no byte is the spec's decision D2, log 4). -/
def Obligations.ProcessWithoutBytesDoesNothing : Prop :=
  ∀ (k : Nat) (s : State), s.rx = [] → process k s = .next (s, .none)

/-- R71 and R161: in `Idle` one byte is read; START goes to `AwaitingLabel`, anything else is dropped. -/
def Obligations.IdleStepScansForStart : Prop :=
  ∀ (k : Nat) (s : State) (b : Byte) (rest : List Byte), s.parse = .idle → s.rx = b :: rest →
    process k s =
      .next ({ s with rx := rest, parse := if b = 0x7E then .awaitingLabel else .idle }, .none)

/-- R72: in `AwaitingLabel` one byte is read as the label, coerced, and never taken as a delimiter. -/
def Obligations.LabelStepCoerces : Prop :=
  ∀ (k : Nat) (s : State) (b : Byte) (rest : List Byte), s.parse = .awaitingLabel → s.rx = b :: rest →
    process k s = .next ({ s with rx := rest, label := coerce b, parse := .awaitingLength }, .none)

/-- R162: an oversized LENGTH is consumed and the block is back in `Idle`, with nothing else changed (that
`length` and `received` keep their values is the spec's decision D23, log 13). -/
def Obligations.OversizedLengthIsDropped : Prop :=
  ∀ (k : Nat) (s : State) (b0 b1 : Byte) (rest : List Byte),
    s.parse = .awaitingLength → s.rx = b0 :: b1 :: rest → 600 < b0.toNat + 256 * b1.toNat →
      process k s = .next ({ s with rx := rest, parse := .idle }, .none)

/-- R73, the other two cases: one byte waiting is left alone; a LENGTH of at most 600 starts the payload. -/
def Obligations.LengthStepWaitsOrAccepts : Prop :=
  ∀ (k : Nat) (s : State), s.parse = .awaitingLength →
    (∀ b, s.rx = [b] → process k s = .next (s, .none)) ∧
    ∀ (b0 b1 : Byte) (rest : List Byte), s.rx = b0 :: b1 :: rest → b0.toNat + 256 * b1.toNat ≤ 600 →
      ∃ t, process k s = .next (t, .none) ∧ t.length.toNat = b0.toNat + 256 * b1.toNat ∧
        t = { s with rx := rest, length := t.length, received := 0, parse := .awaitingPayload }

/-- R74: once the payload is used up one invocation goes to `AwaitingEnd` and reads nothing (that the test
comes first, in an invocation of its own, is the spec's decision D3, log 4). -/
def Obligations.UsedUpPayloadAwaitsEnd : Prop :=
  ∀ (k : Nat) (s : State), s.parse = .awaitingPayload → s.rx ≠ [] → s.received = s.length →
    process k s = .next ({ s with parse := .awaitingEnd }, .none)

/-- R91: the discard handler takes and counts exactly one byte, whatever its value (that receive_dmx_data and
get_widget_serial use it is the spec's decision D5, log 6). -/
def Obligations.DiscardTakesOneByte : Prop :=
  ∀ (k : Nat) (s : State) (b : Byte) (rest : List Byte),
    s.label ∈ [Label.invalid, .reprogramFirmware, .programFlashPage, .receiveDmxData, .getWidgetSerial] →
    s.parse = .awaitingPayload → s.received.toNat < s.length.toNat → s.rx = b :: rest →
      process k s = .next ({ s with rx := rest, received := s.received + 1 }, .none)

/-- R92: the size field is taken whole, low byte first, and `state` goes directly to `AwaitingEnd`; with one
byte of it waiting nothing happens; a LENGTH of 1 discards its byte (the byte order is the spec's decision
D11, the joint read and LENGTH other than 2 its decision D6; log 7, log 11). -/
def Obligations.GetParamsHandlerTakesSize : Prop :=
  ∀ (k : Nat) (s : State), s.parse = .awaitingPayload → s.label = .getWidgetParameters → s.received = 0 →
    (∀ (b0 b1 : Byte) (rest : List Byte), 2 ≤ s.length.toNat → s.rx = b0 :: b1 :: rest →
      ∃ t, process k s = .next (t, .none) ∧ t.cfgSize.toNat = b0.toNat + 256 * b1.toNat ∧
        t = { s with rx := rest, cfgSize := t.cfgSize, received := 2, parse := .awaitingEnd }) ∧
    (∀ b, 2 ≤ s.length.toNat → s.rx = [b] → process k s = .next (s, .none)) ∧
    ∀ (b : Byte) (rest : List Byte), s.length = 1 → s.rx = b :: rest →
      process k s = .next ({ s with rx := rest, received := 1 }, .none)

/-- R93: the five-byte block is taken whole and changes the three parameters together; with fewer than five
bytes waiting nothing happens; later bytes, and every byte of a payload shorter than five, are discarded one
at a time (the block read and LENGTH below 5 are the spec's decision D7, log 8). -/
def Obligations.StoreParamsHandlerTakesBlock : Prop :=
  ∀ (k : Nat) (s : State), s.parse = .awaitingPayload → s.label = .storeWidgetParameters →
    (∀ (q0 q1 b m r : Byte) (rest : List Byte), 5 ≤ s.length.toNat → s.received = 0 →
      s.rx = q0 :: q1 :: b :: m :: r :: rest →
        process k s =
          .next ({ s with rx := rest, breakTime := b, mabTime := m, rate := r, received := 5 }, .none)) ∧
    (5 ≤ s.length.toNat → s.received = 0 → s.rx.length < 5 → process k s = .next (s, .none)) ∧
    ∀ (b : Byte) (rest : List Byte), s.length.toNat < 5 ∨ s.received ≠ 0 →
      s.received.toNat < s.length.toNat → s.rx = b :: rest →
        process k s = .next ({ s with rx := rest, received := s.received + 1 }, .none)

/-- R94: one invocation of the send_dmx_data handler takes `n` bytes, `1 <= n <= min(avail, length -
received)`; the byte at payload offset `j >= 1` goes to channel index `j - 1` when that is below `N`, the start
code goes nowhere, and every other channel and register is unchanged. How many bytes is open (D8, log 9). -/
def Obligations.DmxHandlerWritesChannels : Prop :=
  ∀ (k : Nat) (s : State), s.parse = .awaitingPayload → s.label = .sendDmxData → s.rx ≠ [] →
    s.received.toNat < s.length.toNat → s.chan.wf = true →
      ∃ (n : Nat) (t : State), process k s = .next (t, .none) ∧
        1 ≤ n ∧ n ≤ s.rx.length ∧ n ≤ s.length.toNat - s.received.toNat ∧
        t = { s with rx := s.rx.drop n, received := t.received, chan := t.chan } ∧
        t.received.toNat = s.received.toNat + n ∧
        ∀ i, t.chan.read i =
          if s.received.toNat ≤ i + 1 ∧ i + 1 < s.received.toNat + n ∧ i < s.capacity
          then s.rx.getD (i + 1 - s.received.toNat) 0 else s.chan.read i

/-- R75 and R163: in `AwaitingEnd` one byte is read and the block is back in `Idle`; END dispatches the
message, any other byte drops it and undoes nothing. -/
def Obligations.EndStepDispatchesOrDrops : Prop :=
  ∀ (k : Nat) (s : State) (b : Byte) (rest : List Byte), s.parse = .awaitingEnd → s.rx = b :: rest →
    process k s =
      if b = 0xE7 then .next (dispatchMessage s.label { s with rx := rest, parse := .idle })
      else .next ({ s with rx := rest, parse := .idle }, .none)

/-- R110: which completed message sends which reply and returns which event (the reply labels are the spec's
decision D9, log 10; the order of the serial bytes D12, log 11; `none` for receive_dmx_data D5, log 6). -/
def Obligations.DispatchRepliesAndEvents : Prop :=
  ∀ s : State,
    dispatchMessage .getWidgetParameters s =
      (sendFrame 0x03 (serialize s) s.cfgSize.toNat s, .parametersRequested) ∧
    dispatchMessage .getWidgetSerial s =
      (sendFrame 0x0A [s.serial.b0, s.serial.b1, s.serial.b2, s.serial.b3] 0 s, .serialRequested) ∧
    dispatchMessage .storeWidgetParameters s = (s, .parametersChanged) ∧
    dispatchMessage .sendDmxData s = (s, .dmxData) ∧
    ∀ l ∈ [Label.invalid, .reprogramFirmware, .programFlashPage, .receiveDmxData],
      dispatchMessage l s = (s, .none)

/-- R78: the whole transition relation of `state`, with the event of each transition, `none` wherever no byte is
waiting (the gate in `AwaitingPayload` is the spec's decision D2 and the invocation that only moves to `AwaitingEnd`
D3, log 4; the move to `AwaitingEnd` for a get_widget_parameters LENGTH above 2 is D6, log 7). -/
def Obligations.ProcessFollowsTransitionTable : Prop :=
  ∀ (k : Nat) (s : State), ∃ t e, process k s = .next (t, e) ∧
    (e ≠ .none → s.parse = .awaitingEnd) ∧
    match s.parse, s.rx with
    | p, [] => t.parse = p ∧ e = .none
    | .idle, b :: _ => t.parse = if b = 0x7E then .awaitingLabel else .idle
    | .awaitingLabel, _ => t.parse = .awaitingLength
    | .awaitingLength, [_] => t.parse = .awaitingLength
    | .awaitingLength, b0 :: b1 :: _ =>
      t.parse = if b0.toNat + 256 * b1.toNat ≤ 600 then .awaitingPayload else .idle
    | .awaitingPayload, rx =>
      t.parse =
        if s.received = s.length then .awaitingEnd
        else if s.label = .getWidgetParameters ∧ 2 ≤ s.length.toNat ∧ 2 ≤ rx.length then .awaitingEnd
        else .awaitingPayload
    | .awaitingEnd, b :: _ => t.parse = .idle ∧ e = if b = 0xE7 then eventOf s.label else .none

/-- R77: how many bytes one invocation reads, by state and handler (that a used-up payload reads none in an
invocation of its own is the spec's decision D3, log 4; the one byte of receive_dmx_data and get_widget_serial D5,
log 6; the counts of the other handlers D6, D7 and D8, log 7, 8, 9). They come off the head of `rx`. -/
def Obligations.ProcessReadsTabledBytes : Prop :=
  ∀ (k : Nat) (s : State), ∃ t e n, process k s = .next (t, e) ∧ t.rx = s.rx.drop n ∧
    n ≤ s.rx.length ∧
    match s.parse with
    | .idle | .awaitingLabel | .awaitingEnd => n = min 1 s.rx.length
    | .awaitingLength => n = if 2 ≤ s.rx.length then 2 else 0
    | .awaitingPayload =>
      if s.rx = [] ∨ s.received = s.length then n = 0
      else match s.label with
        | .getWidgetParameters =>
          n = if 2 ≤ s.length.toNat then (if 2 ≤ s.rx.length then 2 else 0) else 1
        | .storeWidgetParameters =>
          n = if 5 ≤ s.length.toNat ∧ s.received = 0 then (if 5 ≤ s.rx.length then 5 else 0) else 1
        | .sendDmxData => 1 ≤ n ∧ (s.received.toNat < s.length.toNat → n ≤ s.length.toNat - s.received.toNat)
        | _ => n = 1

/-- R95 (a), (b), (d), (e), (f): what every handler keeps to, in every state of the invariant (R15; its clause on a
get_widget_parameters payload, and what the handlers do with a LENGTH or label the source does not describe, rest on
the spec's decisions D5, D6 and D7, log 6, 7, 8). -/
def Obligations.HandlersKeepTheirContract : Prop :=
  ∀ (k : Nat) (s : State), s.Inv → s.parse = .awaitingPayload → s.rx ≠ [] → s.received ≠ s.length →
    ∃ t n, handler k s = .next t ∧ t.rx = s.rx.drop n ∧ n ≤ s.rx.length ∧
      n ≤ s.length.toNat - s.received.toNat ∧ t.received.toNat = s.received.toNat + n ∧
      t.received.toNat ≤ t.length.toNat ∧ t.length = s.length ∧ t.label = s.label ∧
      (n = 0 → t = s) ∧ t.tx = s.tx ∧ t.observed = s.observed ∧
      (s.label ≠ .getWidgetParameters → t.parse = s.parse)

/-- R79: an invocation with bytes waiting makes progress, except in the three waiting conditions, where it is a
no-op (the condition on the size field is the spec's decision D6, log 7; the one on the parameter block D7, log 8;
the move to `AwaitingEnd` that takes no byte D3, log 4). -/
def Obligations.ProcessProgressesUnlessWaiting : Prop :=
  ∀ (k : Nat) (s : State), s.rx ≠ [] → ∃ t e, process k s = .next (t, e) ∧
    if s.waiting then t = s ∧ e = .none
    else t.rx.length < s.rx.length ∨ (t.rx = s.rx ∧ s.parse = .awaitingPayload ∧ t.parse = .awaitingEnd)

/-- R79, R193: polling ends in quiescence within twice as many invocations as bytes are waiting (the count rests on
the spec's decisions D2 and D3, log 4; two of the waiting conditions that make a state quiescent on D6 and D7, log 7,
8). -/
def Obligations.PollingReachesQuiescence : Prop :=
  ∀ (s : State) (ks : List Nat), 2 * s.rx.length ≤ ks.length →
    ∃ t, polls ks s = .next t ∧ t.quiescent = true

/-- R81: the same bytes delivered in any two ways, in any chunks, with any invocations between and any choices
of DMX_BURST, end in the same state with the same bytes on `tx` and the same events, once both are
quiescent (two of the waiting conditions that make a state quiescent are the spec's decisions D6 and D7, log 7, 8; how
many bytes a send_dmx_data invocation takes is open, D8, log 9). -/
def Obligations.ChunkingInvariance : Prop :=
  ∀ (s t1 t2 : State) (d1 d2 : List Delivery), delivered d1 = delivered d2 →
    deliver d1 s = .next t1 → deliver d2 s = .next t2 →
    t1.quiescent = true → t2.quiescent = true → t1 = t2

/-- R82 (and R120, R162, R163 for the frames that are dropped): polling through a whole frame met in `Idle`, with
any choices of DMX_BURST, takes at most one invocation a byte and ends exactly where the frame's meaning says (the
count of invocations rests on the spec's decisions D2 and D3, log 4; the forms outside the envelope on D4 to D7,
log 5, 6, 7, 8; the registers an oversized LENGTH leaves on D23, log 13). -/
def Obligations.FrameMeaningIsItsInvocations : Prop :=
  ∀ (i : Instr) (s : State) (rest : List Byte) (ks : Nat → Nat),
    i.isFrame = true → wellFormed i = true → s.meets i rest →
      ∃ n t, n ≤ (encode i).length ∧ polls ((List.range n).map ks) s = .next t ∧ exec i s = .next t

/-- R186: from any state of the invariant (its clause on a get_widget_parameters payload is the spec's decision D6,
log 7), once 601 bytes 0x00 have been consumed the decoder is in `Idle`. -/
def Obligations.ZeroBytesResynchronise : Prop :=
  ∀ (s t : State) (ks : List Nat), s.Inv →
    polls ks (hostSends (List.replicate 601 0) s) = .next t → t.quiescent = true →
      t.parse = .idle ∧ t.rx = []

/-! ## The messages -/

/-- R111, R112, R113: INVALID, REPROGRAM_FIRMWARE and PROGRAM_FLASH_PAGE are consumed; no register but the parse
registers changes, no event, no reply. The same holds of the frames that do not complete, LENGTH above 600 and a
wrong END (R120, R162, R163; that an oversized LENGTH leaves `length` and `received`, and what the parse registers
keep in `Idle`, is the spec's decision D23, log 13). -/
def Obligations.DiscardedMessagesChangeNothing : Prop :=
  ∀ (s : State) (body : Body) (rest : List Byte),
    (wellFormed (.invalid body) = true → s.meets (.invalid body) rest →
      exec (.invalid body) s = .next (s.afterFrame .invalid body rest)) ∧
    (wellFormed (.reprogramFirmware body) = true → s.meets (.reprogramFirmware body) rest →
      exec (.reprogramFirmware body) s = .next (s.afterFrame .reprogramFirmware body rest)) ∧
    (wellFormed (.programFlashPage body) = true → s.meets (.programFlashPage body) rest →
      exec (.programFlashPage body) s = .next (s.afterFrame .programFlashPage body rest))

/-- R116: RECEIVE_DMX_DATA inbound is consumed like INVALID; the payload does not reach `chan` (the spec's
decision D5, log 6). The same holds of the frames that do not complete (R120, R162, R163; that an oversized LENGTH
leaves `length` and `received` is the spec's decision D23, log 13). -/
def Obligations.InboundReceiveDmxDataIsDiscarded : Prop :=
  ∀ (s : State) (body : Body) (rest : List Byte),
    wellFormed (.receiveDmxData body) = true → s.meets (.receiveDmxData body) rest →
      exec (.receiveDmxData body) s = .next (s.afterFrame .receiveDmxData body rest)

/-- R119: every row of coerced labels is consumed like INVALID, the raw LABEL byte forgotten (0x07 to 0x09 by
the spec's decision D4, log 5). The same holds of the frames that do not complete (R120, R162, R163; that an
oversized LENGTH leaves `length` and `received` is the spec's decision D23, log 13). -/
def Obligations.UnsupportedMessagesActAsInvalid : Prop :=
  ∀ (i : Instr) (body : Body) (s : State) (rest : List Byte),
    i.isUnsupported = true → i.body? = some body → wellFormed i = true → s.meets i rest →
      exec i s = .next (s.afterFrame .invalid body rest)

/-- R114 with R59, R132, inside the envelope (LENGTH 2): the size is stored; a right END brings the reply, padded
with that many zero bytes, and the event; a wrong END neither (the byte orders and the reply's label are the
spec's decisions D9, D10, D11, its LENGTH reduction D15; log 10, 11, 14). -/
def Obligations.GetWidgetParametersReplies : Prop :=
  ∀ (s : State) (z : Half) (e : Byte) (rest : List Byte),
    let body := Body.framed 2 [loByte z, hiByte z] e
    let t := { s.afterFrame .getWidgetParameters body rest with cfgSize := z }
    let len := BitVec.ofNat 16 (5 + z.toNat)
    s.meets (.getWidgetParameters body) rest →
      exec (.getWidgetParameters body) s = .next
        (if e = 0xE7 then
          { t with
            tx := s.tx ++ ([0x7E, 0x03, loByte len, hiByte len, 0x00, 0x01, s.breakTime, s.mabTime, s.rate]
              ++ List.replicate z.toNat 0 ++ [0xE7])
            observed := s.observed ++ [.event .parametersRequested] }
        else t)

/-- R114, R92 outside the envelope (the spec's decision D6, log 7): LENGTH 0 or 1 keeps the size and replies with
it; LENGTH above 2 takes the first two bytes, low byte first (D11, log 11), and looks for END at the third; the
reply carries the request's label (D9, log 10), and a wrong END brings none (R120, R163). A LENGTH above 600 writes
`label` alone (R120, R162; that `length` and `received` stay is D23, log 13). -/
def Obligations.GetWidgetParametersOtherLengths : Prop :=
  ∀ (s : State) (body : Body) (rest : List Byte),
    wellFormed (.getWidgetParameters body) = true → s.meets (.getWidgetParameters body) rest →
      match body with
      | .oversized _ =>
        exec (.getWidgetParameters body) s = .next (s.afterFrame .getWidgetParameters body rest)
      | .framed len payload e =>
        len ≠ 2 →
          let z := if len.toNat < 2 then s.cfgSize else le16 (payload.getD 0 0) (payload.getD 1 0)
          let t := { s.afterFrame .getWidgetParameters body rest with cfgSize := z }
          exec (.getWidgetParameters body) s = .next
            (if e = 0xE7 then reportEvent .parametersRequested (sendFrame 0x03 (serialize t) z.toNat t)
            else t)

/-- R115, R93: with LENGTH 5 to 600, payload bytes 2, 3 and 4 become the three parameters; with less nothing is
stored (the spec's decision D7, log 8); the event comes with a right END only (R120, R163), and no reply ever. A
LENGTH above 600 stores nothing and writes `label` alone (R120, R162; that `length` and `received` stay is D23,
log 13). -/
def Obligations.StoreWidgetParametersStores : Prop :=
  ∀ (s : State) (body : Body) (rest : List Byte),
    wellFormed (.storeWidgetParameters body) = true → s.meets (.storeWidgetParameters body) rest →
      exec (.storeWidgetParameters body) s = .next
        (match body with
        | .oversized _ => s.afterFrame .storeWidgetParameters body rest
        | .framed len payload e =>
          let s1 := s.afterFrame .storeWidgetParameters body rest
          let s2 := if 5 ≤ len.toNat then
              { s1 with
                breakTime := payload.getD 2 0, mabTime := payload.getD 3 0, rate := payload.getD 4 0 }
            else s1
          if e = 0xE7 then { s2 with observed := s.observed ++ [.event .parametersChanged] } else s2)

/-- R117: a send_dmx_data frame sets channels 1 to n (indices 0 to n-1, those below `N`) to its data bytes and
leaves every other channel; the event comes with a right END only (R120, R163); the start code and every other
register are untouched. A LENGTH above 600 changes no channel and writes `label` alone (R120, R162; that `length`
and `received` stay is the spec's decision D23, log 13). -/
def Obligations.SendDmxDataSetsChannels : Prop :=
  ∀ (s : State) (body : Body) (rest : List Byte), s.chan.wf = true →
    wellFormed (.sendDmxData body) = true → s.meets (.sendDmxData body) rest →
      match body with
      | .oversized _ => exec (.sendDmxData body) s = .next (s.afterFrame .sendDmxData body rest)
      | .framed _ payload e =>
        ∃ t, exec (.sendDmxData body) s = .next t ∧
          t = { s.afterFrame .sendDmxData body rest with
            chan := t.chan
            observed := s.observed ++ (if e = 0xE7 then [.event .dmxData] else []) } ∧
          ∀ i, t.chan.read i =
            if i + 1 < payload.length ∧ i < s.capacity then payload.getD (i + 1) 0 else s.chan.read i

/-- R118, R60, R133: a completed get_widget_serial brings the serial reply and its event; its payload, if any,
is discarded (the spec's decisions D5, D9, D12; log 6, 10, 11). A frame that does not complete brings neither
(R120, R162, R163; that an oversized LENGTH leaves `length` and `received` is D23, log 13). -/
def Obligations.GetWidgetSerialReplies : Prop :=
  ∀ (s : State) (body : Body) (rest : List Byte),
    wellFormed (.getWidgetSerial body) = true → s.meets (.getWidgetSerial body) rest →
      exec (.getWidgetSerial body) s = .next
        (if body.completes then
          { s.afterFrame .getWidgetSerial body rest with
            tx := s.tx ++ [0x7E, 0x0A, 0x04, 0x00, s.serial.b0, s.serial.b1, s.serial.b2, s.serial.b3, 0xE7]
            observed := s.observed ++ [.event .serialRequested] }
        else s.afterFrame .getWidgetSerial body rest)

/-- R120: a frame that does not complete brings no reply and no event, whatever its label. An oversized LENGTH
leaves channels, parameters and `cfg_size` alone; a wrong END leaves them as the completed frame would (that END is
looked for at the third payload byte of a get_widget_parameters of LENGTH above 2 is the spec's decision D6, log 7;
that payloads of receive_dmx_data and get_widget_serial are discarded D5, log 6; that 0x07 to 0x09 are coerced D4,
log 5). -/
def Obligations.IncompleteFramesAreSilent : Prop :=
  ∀ (i : Instr) (body : Body) (s : State) (rest : List Byte),
    i.body? = some body → wellFormed i = true → body.completes = false → s.meets i rest →
      ∃ t, exec i s = .next t ∧ t.parse = .idle ∧ t.rx = rest ∧ t.tx = s.tx ∧ t.observed = s.observed ∧
        match body with
        | .oversized _ =>
          t.chan = s.chan ∧ t.cfgSize = s.cfgSize ∧ t.breakTime = s.breakTime ∧ t.mabTime = s.mabTime ∧
            t.rate = s.rate
        | .framed _ _ _ =>
          ∃ u, exec (i.mapBody .mended) { s with rx := encode (i.mapBody .mended) ++ rest } = .next u ∧
            t = { u with tx := s.tx, observed := s.observed }

/-- R51: outside `Idle` the bytes of a frame are no frame of their own: the block goes on by one invocation of
`Process`, which always answers (the model's choice for that call of `exec`, log 27). -/
def Obligations.FrameOutsideIdleIsOneInvocation : Prop :=
  ∀ (i : Instr) (s : State), i.isFrame = true → s.parse ≠ .idle →
    ∃ t, invoke s = .next t ∧ exec i s = .next t

/-- R71, R75, R110: START in `Idle` and END in `AwaitingEnd` are exactly the invocation that reads them; in
every other state the block goes on by one invocation (log 27). -/
def Obligations.DelimitersAreTheirInvocations : Prop :=
  ∀ (k : Nat) (s : State) (rest : List Byte),
    (s.parse = .idle → s.rx = 0x7E :: rest →
      exec .start s = .next { s with rx := rest, parse := .awaitingLabel } ∧ poll k s = exec .start s) ∧
    (s.parse = .awaitingEnd → s.rx = 0xE7 :: rest →
      exec .endDelim s =
        .next (reportEvent (dispatchMessage s.label { s with rx := rest, parse := .idle }).2
          (dispatchMessage s.label { s with rx := rest, parse := .idle }).1) ∧
      poll k s = exec .endDelim s) ∧
    (s.parse ≠ .idle → exec .start s = invoke s) ∧ (s.parse ≠ .awaitingEnd → exec .endDelim s = invoke s)

/-! ## The encoder and the channel buffer -/

/-- R130: `SendFrame` writes START, the label, the 16-bit little-endian length of payload and padding, the
payload, the padding and END, contiguous on `tx`, and changes nothing else (the length reduced modulo 65536 is the
spec's decision D15, R131, log 14). -/
def Obligations.SendFrameWritesOneFrame : Prop :=
  ∀ (s : State) (l : Byte) (p : List Byte) (z : Nat),
    sendFrame l p z s = { s with
      tx := s.tx ++ ([0x7E, l, BitVec.ofNat 8 ((p.length + z) % 65536 % 256),
        BitVec.ofNat 8 ((p.length + z) % 65536 / 256)] ++ p ++ List.replicate z 0 ++ [0xE7]) }

/-- R132, R133, R135 with R59, R60, R61: what the three outbound rows put on `tx`, and that they change nothing
else (reply labels D9, byte orders D10 and D12, upload writes `tx` only D18; log 10, 11, 16). The flag byte is
free (D13, log 12). -/
def Obligations.OutboundRowsWriteTheirFrames : Prop :=
  ∀ (s : State) (valid : Bool) (data : List Byte),
    let len := BitVec.ofNat 16 (5 + s.cfgSize.toNat)
    let n := BitVec.ofNat 16 (data.length + 2)
    exec .parameterReply s = .next { s with
      tx := s.tx ++ ([0x7E, 0x03, loByte len, hiByte len, 0x00, 0x01, s.breakTime, s.mabTime, s.rate]
        ++ List.replicate s.cfgSize.toNat 0 ++ [0xE7]) } ∧
    exec .serialReply s = .next { s with
      tx := s.tx ++ [0x7E, 0x0A, 0x04, 0x00, s.serial.b0, s.serial.b1, s.serial.b2, s.serial.b3, 0xE7] } ∧
    exec (.dmxNotification valid data) s = .next { s with
      tx := s.tx ++ ([0x7E, 0x05, loByte n, hiByte n, Config.validFlagByte valid, 0x00] ++ data ++ [0xE7]) }

/-- R150, R166: a channel write below `N` sets that byte and no other; at `N` or above it does nothing; the
buffer stays in canonical form (the form is the model's, log 25). -/
def Obligations.ChannelWriteIsBoundedAndLocal : Prop :=
  ∀ (s : State) (i j : Nat) (v : Byte), s.chan.wf = true →
    (chanWrite i v s).chan.wf = true ∧
    (chanWrite i v s).chan.read j = (if j = i ∧ i < s.capacity then v else s.chan.read j) ∧
    chanWrite i v s = { s with chan := (chanWrite i v s).chan } ∧
    (s.capacity ≤ i → chanWrite i v s = s)

/-! ## The whole machine -/

/-- R15, R19 and the canonical form of the buffer (the model's, log 25): every step keeps the invariant. Its clause
that a get_widget_parameters payload is untouched or used up is the spec's decision D6 (R92, log 7). -/
def Obligations.StepKeepsInvariant : Prop :=
  ∀ s t : State, s.Inv → step s = .next t → t.Inv

/-- R24: the invariant (R15, R19; canonical form, log 25) holds in the state after construction (`Idle` and the
zeros of `length` and `received` are the spec's decision D14, log 13; the zero buffer is the source's). -/
def Obligations.ResetHasInvariant : Prop := State.reset.Inv

/-- R32: no inbound frame reaches a channel index of 599 or above: such channels keep reading 0 for ever, over
every move (that the caller has no move that writes a channel is the spec's decision D24, log 21). -/
def Obligations.ChannelsBeyondWireStayZero : Prop :=
  ∀ s t : State, s.Inv → (∀ i, 599 ≤ i → s.chan.read i = 0) → step s = .next t →
    ∀ i, 599 ≤ i → t.chan.read i = 0

/-- R23, R171: one invocation of `Process` changes a channel only in a send_dmx_data payload, the three
parameters only in a store_widget_parameters payload, `cfg_size` only in a get_widget_parameters payload, and
writes to `tx` only when it reads the END of one of the two requests; SERIAL, `N` and what the caller holds never
change. -/
def Obligations.ProcessChangesOnlyWhatLabelAllows : Prop :=
  ∀ (k : Nat) (s : State), ∃ t e, process k s = .next (t, e) ∧
    (t.chan ≠ s.chan → s.parse = .awaitingPayload ∧ s.label = .sendDmxData) ∧
    ((t.breakTime, t.mabTime, t.rate) ≠ (s.breakTime, s.mabTime, s.rate) →
      s.parse = .awaitingPayload ∧ s.label = .storeWidgetParameters) ∧
    (t.cfgSize ≠ s.cfgSize → s.parse = .awaitingPayload ∧ s.label = .getWidgetParameters) ∧
    (t.tx ≠ s.tx → s.parse = .awaitingEnd ∧ s.rx.head? = some 0xE7 ∧
      (s.label = .getWidgetParameters ∨ s.label = .getWidgetSerial)) ∧
    (t.label ≠ s.label → s.parse = .awaitingLabel) ∧ (t.length ≠ s.length → s.parse = .awaitingLength) ∧
    t.serial = s.serial ∧ t.capacity = s.capacity ∧ t.observed = s.observed ∧ t.inputs = s.inputs ∧
    t.choices = s.choices

/-- R23, R43 (c), R171: over every move: only `Construct` changes SERIAL or `N`; only `Construct`, an invocation
of `Process` and a run of an instruction change a register of the block or a channel; `tx` only grows, unless
the environment takes from its head; what the caller has been told stays told; one move is taken off the list
(that an upload changes no register is the spec's decision D18, log 16; that no move of the caller writes a channel
or a parameter D24, log 21; the record and the list of moves are the model's own, log 24 and log 1). What a move
does to `rx` is `Obligations.UnreadBytesLeaveFromTheHead`. -/
def Obligations.MovesKeepTheirPlaces : Prop :=
  ∀ s t : State, step s = .next t →
    (t.serial ≠ s.serial ∨ t.capacity ≠ s.capacity → ∃ n b xs, s.inputs = .construct n b :: xs) ∧
    ((t.parse, t.label, t.length, t.received, t.cfgSize, t.breakTime, t.mabTime, t.rate, t.chan) ≠
        (s.parse, s.label, s.length, s.received, s.cfgSize, s.breakTime, s.mabTime, s.rate, s.chan) →
      s.inputs = [] ∨ ∃ x xs, s.inputs = x :: xs ∧
        (x = .process ∨ x = .runInstr ∨ ∃ n b, x = .construct n b)) ∧
    ((∃ out, t.tx = s.tx ++ out) ∨ ∃ n xs, s.inputs = .hostTakes n :: xs ∧ t.tx = s.tx.drop n) ∧
    (∃ o, t.observed = s.observed ++ o) ∧ t.inputs = s.inputs.tail

/-- R45: no decoding decision looks at channels, parameters, `cfg_size`, SERIAL, `N` or `tx`: two states at the
same place of the same bytes stay so, and return the same event. -/
def Obligations.DecodingIgnoresStoredValues : Prop :=
  ∀ (k : Nat) (s u : State), s.sameDecoding u →
    ∃ s1 u1 e, process k s = .next (s1, e) ∧ process k u = .next (u1, e) ∧ s1.sameDecoding u1

/-- R135, R136: an upload between two invocations does not disturb the decoding: the invocation does and
returns what it would have, and its own bytes follow the uploaded frame on `tx`. -/
def Obligations.UploadDoesNotDisturbDecoding : Prop :=
  ∀ (k : Nat) (s t : State) (e : Event) (valid : Bool) (data : List Byte), process k s = .next (t, e) →
    ∃ out, t.tx = s.tx ++ out ∧
      process k (uploadDmx valid data s) = .next ({ t with tx := (uploadDmx valid data s).tx ++ out }, e)

/-- R35, R37, R43 (b): over every move: unread bytes leave `rx` from its head, in the order they arrived, and only
in an invocation of `Process` or a run of an instruction; bytes join it only at its tail, and only as the host's
(that the environment never takes or reorders them is the spec's decision D17, log 15; that nothing the block writes
joins them D20, log 19; the list of moves is the model's own, log 1). -/
def Obligations.UnreadBytesLeaveFromTheHead : Prop :=
  ∀ s t : State, step s = .next t →
    (∃ bytes xs, s.inputs = .hostSends bytes :: xs ∧ t.rx = s.rx ++ bytes) ∨
      ∃ taken, s.rx = taken ++ t.rx ∧
        (taken ≠ [] → s.inputs = [] ∨ ∃ x xs, s.inputs = x :: xs ∧ (x = .process ∨ x = .runInstr))
end

