-- ==== Sys2Proof/Laws/Decode.lean ====
section
/-! SUPPORT. The byte-order helpers, and how a row of the LABEL table, the instruction built from it and the
instruction's bytes belong together. -/

namespace Sys2Proof

/-! ## Byte order -/

theorem le16_toNat (b0 b1 : Byte) : (le16 b0 b1).toNat = b0.toNat + 256 * b1.toNat := by
  have h0 := b0.isLt
  have h1 := b1.isLt
  simp only [le16, BitVec.toNat_ofNat]
  omega

theorem loByte_toNat (v : Half) : (loByte v).toNat = v.toNat % 256 := by
  simp [loByte, BitVec.extractLsb'_toNat]

theorem hiByte_toNat (v : Half) : (hiByte v).toNat = v.toNat / 256 := by
  have h := v.isLt
  simp only [hiByte, BitVec.extractLsb'_toNat, Nat.shiftRight_eq_div_pow]
  omega

@[simp] theorem le16_loByte_hiByte (v : Half) : le16 (loByte v) (hiByte v) = v := by
  apply BitVec.eq_of_toNat_eq
  rw [le16_toNat, loByte_toNat, hiByte_toNat]
  omega

@[simp] theorem loByte_le16 (b0 b1 : Byte) : loByte (le16 b0 b1) = b0 := by
  apply BitVec.eq_of_toNat_eq
  have h0 := b0.isLt
  rw [loByte_toNat, le16_toNat]
  omega

@[simp] theorem hiByte_le16 (b0 b1 : Byte) : hiByte (le16 b0 b1) = b1 := by
  apply BitVec.eq_of_toNat_eq
  have h0 := b0.isLt
  rw [hiByte_toNat, le16_toNat]
  omega

/-! ## Well-formed bodies -/

theorem sizeField_eq (len : Nat) : sizeField len = min len 2 := rfl

theorem Body.wellFormed_oversized (taken : Nat → Nat) (len : Half) :
    (Body.oversized len).wellFormed taken = true ↔ 600 < len.toNat :=
  decide_eq_true_iff

theorem Body.wellFormed_framed (taken : Nat → Nat) (len : Half) (p : List Byte) (e : Byte) :
    (Body.framed len p e).wellFormed taken = true ↔ len.toNat ≤ 600 ∧ p.length = taken len.toNat := by
  simp only [Body.wellFormed, Bool.and_eq_true, decide_eq_true_iff]
  rfl

/-! ## Labels -/

/-- `Coerce` byte by byte (R55). -/
theorem coerce_eq (b : Byte) :
    coerce b =
      if b = 0x01 then .reprogramFirmware else if b = 0x02 then .programFlashPage
      else if b = 0x03 then .getWidgetParameters else if b = 0x04 then .storeWidgetParameters
      else if b = 0x05 then .receiveDmxData else if b = 0x06 then .sendDmxData
      else if b = 0x0A then .getWidgetSerial else .invalid := by
  revert b
  decide +kernel

/-! ## Rows, instructions and bytes -/

/-- The LABEL byte of an inbound frame. -/
def Instr.labelByte : Instr → Byte
  | .invalid _ => Label.invalid.code
  | .reprogramFirmware _ => Label.reprogramFirmware.code
  | .programFlashPage _ => Label.programFlashPage.code
  | .getWidgetParameters _ => Label.getWidgetParameters.code
  | .storeWidgetParameters _ => Label.storeWidgetParameters.code
  | .receiveDmxData _ => Label.receiveDmxData.code
  | .sendDmxData _ => Label.sendDmxData.code
  | .unsupported07 _ => 0x07
  | .unsupported08To09 low _ => 0b0000100#7 ++ low
  | .getWidgetSerial _ => Label.getWidgetSerial.code
  | .unsupported0B _ => 0x0B
  | .unsupported0CTo0F low _ => 0b000011#6 ++ low
  | .unsupported10To1F low _ => 0b0001#4 ++ low
  | .unsupported20To3F low _ => 0b001#3 ++ low
  | .unsupported40To7F low _ => 0b01#2 ++ low
  | .unsupported80ToFF low _ => 0b1#1 ++ low
  | .parameterReply | .serialReply | .dmxNotification _ _ | .start | .endDelim => 0

@[simp] theorem LabelRow.body_build (r : LabelRow) (label : Byte) (body : Body) :
    (r.build label body).body? = some body := by
  cases r <;> rfl

@[simp] theorem LabelRow.wellFormed_build (r : LabelRow) (label : Byte) (body : Body) :
    wellFormed (r.build label body) = body.wellFormed r.taken := by
  cases r <;> rfl

theorem encode_of_body {i : Instr} {body : Body} (h : i.body? = some body) :
    encode i = encodeBody i.labelByte body := by
  cases i <;> simp only [Instr.body?, Option.some.injEq, reduceCtorEq] at h <;> subst h <;> rfl

/-- The body of an instruction is whatever it is built with. -/
theorem LabelRow.build_mapBody (r : LabelRow) (label : Byte) (body : Body) :
    r.build label body = (r.build label (.oversized 0)).mapBody fun _ => body := by
  cases r <;> rfl

/-- A LABEL byte is put together again from its row and the bits the row's mask leaves free. -/
theorem LabelRow.labelByte_build (label : Byte) (body : Body) :
    ((rowOf label).build label body).labelByte = label := by
  have h : ∀ label : Byte, ((rowOf label).build label (.oversized 0)).labelByte = label := by decide +kernel
  refine Eq.trans ?_ (h label)
  cases rowOf label <;> rfl

@[simp] theorem encode_build (label : Byte) (body : Body) :
    encode ((rowOf label).build label body) = encodeBody label body := by
  rw [encode_of_body (LabelRow.body_build _ _ _), LabelRow.labelByte_build]

/-! Each row of the table builds its instruction from its LABEL bytes. -/

theorem rowBuilds_invalid : let i := Instr.invalid (.oversized 0)
    (rowOf i.labelByte).build i.labelByte (.oversized 0) = i := by decide
theorem rowBuilds_reprogramFirmware : let i := Instr.reprogramFirmware (.oversized 0)
    (rowOf i.labelByte).build i.labelByte (.oversized 0) = i := by decide
theorem rowBuilds_programFlashPage : let i := Instr.programFlashPage (.oversized 0)
    (rowOf i.labelByte).build i.labelByte (.oversized 0) = i := by decide
theorem rowBuilds_getWidgetParameters : let i := Instr.getWidgetParameters (.oversized 0)
    (rowOf i.labelByte).build i.labelByte (.oversized 0) = i := by decide
theorem rowBuilds_storeWidgetParameters : let i := Instr.storeWidgetParameters (.oversized 0)
    (rowOf i.labelByte).build i.labelByte (.oversized 0) = i := by decide
theorem rowBuilds_receiveDmxData : let i := Instr.receiveDmxData (.oversized 0)
    (rowOf i.labelByte).build i.labelByte (.oversized 0) = i := by decide
theorem rowBuilds_sendDmxData : let i := Instr.sendDmxData (.oversized 0)
    (rowOf i.labelByte).build i.labelByte (.oversized 0) = i := by decide
theorem rowBuilds_unsupported07 : let i := Instr.unsupported07 (.oversized 0)
    (rowOf i.labelByte).build i.labelByte (.oversized 0) = i := by decide
theorem rowBuilds_unsupported08To09 : ∀ low : BitVec 1, let i := Instr.unsupported08To09 low (.oversized 0)
    (rowOf i.labelByte).build i.labelByte (.oversized 0) = i := by decide +kernel
theorem rowBuilds_getWidgetSerial : let i := Instr.getWidgetSerial (.oversized 0)
    (rowOf i.labelByte).build i.labelByte (.oversized 0) = i := by decide
theorem rowBuilds_unsupported0B : let i := Instr.unsupported0B (.oversized 0)
    (rowOf i.labelByte).build i.labelByte (.oversized 0) = i := by decide
theorem rowBuilds_unsupported0CTo0F : ∀ low : BitVec 2, let i := Instr.unsupported0CTo0F low (.oversized 0)
    (rowOf i.labelByte).build i.labelByte (.oversized 0) = i := by decide +kernel
theorem rowBuilds_unsupported10To1F : ∀ low : BitVec 4, let i := Instr.unsupported10To1F low (.oversized 0)
    (rowOf i.labelByte).build i.labelByte (.oversized 0) = i := by decide +kernel
theorem rowBuilds_unsupported20To3F : ∀ low : BitVec 5, let i := Instr.unsupported20To3F low (.oversized 0)
    (rowOf i.labelByte).build i.labelByte (.oversized 0) = i := by decide +kernel
theorem rowBuilds_unsupported40To7F : ∀ low : BitVec 6, let i := Instr.unsupported40To7F low (.oversized 0)
    (rowOf i.labelByte).build i.labelByte (.oversized 0) = i := by decide +kernel
theorem rowBuilds_unsupported80ToFF : ∀ low : BitVec 7, let i := Instr.unsupported80ToFF low (.oversized 0)
    (rowOf i.labelByte).build i.labelByte (.oversized 0) = i := by decide +kernel

/-- An inbound frame is what its LABEL byte's row builds from it. -/
theorem build_labelByte {i : Instr} {body : Body} (h : i.body? = some body) :
    (rowOf i.labelByte).build i.labelByte body = i := by
  rw [LabelRow.build_mapBody]
  cases i with
  | invalid b =>
    cases h
    exact congrArg (Instr.mapBody fun _ => body) (rowBuilds_invalid)
  | reprogramFirmware b =>
    cases h
    exact congrArg (Instr.mapBody fun _ => body) (rowBuilds_reprogramFirmware)
  | programFlashPage b =>
    cases h
    exact congrArg (Instr.mapBody fun _ => body) (rowBuilds_programFlashPage)
  | getWidgetParameters b =>
    cases h
    exact congrArg (Instr.mapBody fun _ => body) (rowBuilds_getWidgetParameters)
  | storeWidgetParameters b =>
    cases h
    exact congrArg (Instr.mapBody fun _ => body) (rowBuilds_storeWidgetParameters)
  | receiveDmxData b =>
    cases h
    exact congrArg (Instr.mapBody fun _ => body) (rowBuilds_receiveDmxData)
  | sendDmxData b =>
    cases h
    exact congrArg (Instr.mapBody fun _ => body) (rowBuilds_sendDmxData)
  | unsupported07 b =>
    cases h
    exact congrArg (Instr.mapBody fun _ => body) (rowBuilds_unsupported07)
  | unsupported08To09 low b =>
    cases h
    exact congrArg (Instr.mapBody fun _ => body) (rowBuilds_unsupported08To09 low)
  | getWidgetSerial b =>
    cases h
    exact congrArg (Instr.mapBody fun _ => body) (rowBuilds_getWidgetSerial)
  | unsupported0B b =>
    cases h
    exact congrArg (Instr.mapBody fun _ => body) (rowBuilds_unsupported0B)
  | unsupported0CTo0F low b =>
    cases h
    exact congrArg (Instr.mapBody fun _ => body) (rowBuilds_unsupported0CTo0F low)
  | unsupported10To1F low b =>
    cases h
    exact congrArg (Instr.mapBody fun _ => body) (rowBuilds_unsupported10To1F low)
  | unsupported20To3F low b =>
    cases h
    exact congrArg (Instr.mapBody fun _ => body) (rowBuilds_unsupported20To3F low)
  | unsupported40To7F low b =>
    cases h
    exact congrArg (Instr.mapBody fun _ => body) (rowBuilds_unsupported40To7F low)
  | unsupported80ToFF low b =>
    cases h
    exact congrArg (Instr.mapBody fun _ => body) (rowBuilds_unsupported80ToFF low)
  | _ => exact nomatch h

/-- What the decoder reads is a frame. -/
theorem isFrame_of_decodeFrame {bytes rest : List Byte} {i : Instr} (h : decodeFrame bytes = .ok (i, rest)) :
    ∃ label body, i = (rowOf label).build label body := by
  unfold decodeFrame at h
  split at h
  · exact nomatch h
  · split at h
    · split at h
      · rename_i label rest'
        unfold decodeBody at h
        split at h
        · simp only at h
          split at h
          · cases h
            exact ⟨label, _, rfl⟩
          · split at h
            · cases h
              exact ⟨label, _, rfl⟩
            · exact nomatch h
        · exact nomatch h
      · exact nomatch h
    · exact nomatch h

/-- Only a frame that has begun is truncated. -/
theorem start_of_truncated {bytes : List Byte} (h : decodeFrame bytes = .error .truncated) :
    ∃ rest, bytes = Config.startByte :: rest := by
  unfold decodeFrame at h
  split at h
  · exact nomatch h
  · split at h
    · rename_i hb
      exact ⟨_, by rw [hb]⟩
    · exact nomatch h

end Sys2Proof
end

