-- ==== Sys2Proof/Laws/State.lean ====
section
/-! SUPPORT. One lemma per field per named update of State, true by unfolding, so that no later proof unfolds an
update. -/

namespace Sys2Proof.Machine

/-! `report` -/

@[simp] theorem report_parse (o : Observation) (s : State) : (report o s).parse = s.parse := rfl
@[simp] theorem report_label (o : Observation) (s : State) : (report o s).label = s.label := rfl
@[simp] theorem report_length (o : Observation) (s : State) : (report o s).length = s.length := rfl
@[simp] theorem report_received (o : Observation) (s : State) : (report o s).received = s.received := rfl
@[simp] theorem report_cfgSize (o : Observation) (s : State) : (report o s).cfgSize = s.cfgSize := rfl
@[simp] theorem report_breakTime (o : Observation) (s : State) : (report o s).breakTime = s.breakTime := rfl
@[simp] theorem report_mabTime (o : Observation) (s : State) : (report o s).mabTime = s.mabTime := rfl
@[simp] theorem report_rate (o : Observation) (s : State) : (report o s).rate = s.rate := rfl
@[simp] theorem report_serial (o : Observation) (s : State) : (report o s).serial = s.serial := rfl
@[simp] theorem report_capacity (o : Observation) (s : State) : (report o s).capacity = s.capacity := rfl
@[simp] theorem report_chan (o : Observation) (s : State) : (report o s).chan = s.chan := rfl
@[simp] theorem report_rx (o : Observation) (s : State) : (report o s).rx = s.rx := rfl
@[simp] theorem report_tx (o : Observation) (s : State) : (report o s).tx = s.tx := rfl
@[simp] theorem report_observed (o : Observation) (s : State) : (report o s).observed = s.observed ++ [o] := rfl
@[simp] theorem report_inputs (o : Observation) (s : State) : (report o s).inputs = s.inputs := rfl
@[simp] theorem report_choices (o : Observation) (s : State) : (report o s).choices = s.choices := rfl

/-! `abandonFrame` -/

@[simp] theorem abandonFrame_parse (s : State) : (abandonFrame s).parse = .idle := rfl
@[simp] theorem abandonFrame_label (s : State) : (abandonFrame s).label = s.label := rfl
@[simp] theorem abandonFrame_length (s : State) : (abandonFrame s).length = s.length := rfl
@[simp] theorem abandonFrame_received (s : State) : (abandonFrame s).received = s.received := rfl
@[simp] theorem abandonFrame_cfgSize (s : State) : (abandonFrame s).cfgSize = s.cfgSize := rfl
@[simp] theorem abandonFrame_breakTime (s : State) : (abandonFrame s).breakTime = s.breakTime := rfl
@[simp] theorem abandonFrame_mabTime (s : State) : (abandonFrame s).mabTime = s.mabTime := rfl
@[simp] theorem abandonFrame_rate (s : State) : (abandonFrame s).rate = s.rate := rfl
@[simp] theorem abandonFrame_serial (s : State) : (abandonFrame s).serial = s.serial := rfl
@[simp] theorem abandonFrame_capacity (s : State) : (abandonFrame s).capacity = s.capacity := rfl
@[simp] theorem abandonFrame_chan (s : State) : (abandonFrame s).chan = s.chan := rfl
@[simp] theorem abandonFrame_rx (s : State) : (abandonFrame s).rx = s.rx := rfl
@[simp] theorem abandonFrame_tx (s : State) : (abandonFrame s).tx = s.tx := rfl
@[simp] theorem abandonFrame_observed (s : State) : (abandonFrame s).observed = s.observed := rfl
@[simp] theorem abandonFrame_inputs (s : State) : (abandonFrame s).inputs = s.inputs := rfl
@[simp] theorem abandonFrame_choices (s : State) : (abandonFrame s).choices = s.choices := rfl

/-! `txWriteN` -/

@[simp] theorem txWriteN_parse (bytes : List Byte) (s : State) : (txWriteN bytes s).parse = s.parse := rfl
@[simp] theorem txWriteN_label (bytes : List Byte) (s : State) : (txWriteN bytes s).label = s.label := rfl
@[simp] theorem txWriteN_length (bytes : List Byte) (s : State) : (txWriteN bytes s).length = s.length := rfl
@[simp] theorem txWriteN_received (bytes : List Byte) (s : State) : (txWriteN bytes s).received = s.received := rfl
@[simp] theorem txWriteN_cfgSize (bytes : List Byte) (s : State) : (txWriteN bytes s).cfgSize = s.cfgSize := rfl
@[simp] theorem txWriteN_breakTime (bytes : List Byte) (s : State) : (txWriteN bytes s).breakTime = s.breakTime := rfl
@[simp] theorem txWriteN_mabTime (bytes : List Byte) (s : State) : (txWriteN bytes s).mabTime = s.mabTime := rfl
@[simp] theorem txWriteN_rate (bytes : List Byte) (s : State) : (txWriteN bytes s).rate = s.rate := rfl
@[simp] theorem txWriteN_serial (bytes : List Byte) (s : State) : (txWriteN bytes s).serial = s.serial := rfl
@[simp] theorem txWriteN_capacity (bytes : List Byte) (s : State) : (txWriteN bytes s).capacity = s.capacity := rfl
@[simp] theorem txWriteN_chan (bytes : List Byte) (s : State) : (txWriteN bytes s).chan = s.chan := rfl
@[simp] theorem txWriteN_rx (bytes : List Byte) (s : State) : (txWriteN bytes s).rx = s.rx := rfl
@[simp] theorem txWriteN_tx (bytes : List Byte) (s : State) : (txWriteN bytes s).tx = s.tx ++ bytes := rfl
@[simp] theorem txWriteN_observed (bytes : List Byte) (s : State) : (txWriteN bytes s).observed = s.observed := rfl
@[simp] theorem txWriteN_inputs (bytes : List Byte) (s : State) : (txWriteN bytes s).inputs = s.inputs := rfl
@[simp] theorem txWriteN_choices (bytes : List Byte) (s : State) : (txWriteN bytes s).choices = s.choices := rfl

/-! `hostSends` -/

@[simp] theorem hostSends_parse (bytes : List Byte) (s : State) : (hostSends bytes s).parse = s.parse := rfl
@[simp] theorem hostSends_label (bytes : List Byte) (s : State) : (hostSends bytes s).label = s.label := rfl
@[simp] theorem hostSends_length (bytes : List Byte) (s : State) : (hostSends bytes s).length = s.length := rfl
@[simp] theorem hostSends_received (bytes : List Byte) (s : State) : (hostSends bytes s).received = s.received := rfl
@[simp] theorem hostSends_cfgSize (bytes : List Byte) (s : State) : (hostSends bytes s).cfgSize = s.cfgSize := rfl
@[simp] theorem hostSends_breakTime (bytes : List Byte) (s : State) : (hostSends bytes s).breakTime = s.breakTime := rfl
@[simp] theorem hostSends_mabTime (bytes : List Byte) (s : State) : (hostSends bytes s).mabTime = s.mabTime := rfl
@[simp] theorem hostSends_rate (bytes : List Byte) (s : State) : (hostSends bytes s).rate = s.rate := rfl
@[simp] theorem hostSends_serial (bytes : List Byte) (s : State) : (hostSends bytes s).serial = s.serial := rfl
@[simp] theorem hostSends_capacity (bytes : List Byte) (s : State) : (hostSends bytes s).capacity = s.capacity := rfl
@[simp] theorem hostSends_chan (bytes : List Byte) (s : State) : (hostSends bytes s).chan = s.chan := rfl
@[simp] theorem hostSends_rx (bytes : List Byte) (s : State) : (hostSends bytes s).rx = s.rx ++ bytes := rfl
@[simp] theorem hostSends_tx (bytes : List Byte) (s : State) : (hostSends bytes s).tx = s.tx := rfl
@[simp] theorem hostSends_observed (bytes : List Byte) (s : State) : (hostSends bytes s).observed = s.observed := rfl
@[simp] theorem hostSends_inputs (bytes : List Byte) (s : State) : (hostSends bytes s).inputs = s.inputs := rfl
@[simp] theorem hostSends_choices (bytes : List Byte) (s : State) : (hostSends bytes s).choices = s.choices := rfl

/-! `hostTakes` -/

@[simp] theorem hostTakes_parse (n : Nat) (s : State) : (hostTakes n s).parse = s.parse := rfl
@[simp] theorem hostTakes_label (n : Nat) (s : State) : (hostTakes n s).label = s.label := rfl
@[simp] theorem hostTakes_length (n : Nat) (s : State) : (hostTakes n s).length = s.length := rfl
@[simp] theorem hostTakes_received (n : Nat) (s : State) : (hostTakes n s).received = s.received := rfl
@[simp] theorem hostTakes_cfgSize (n : Nat) (s : State) : (hostTakes n s).cfgSize = s.cfgSize := rfl
@[simp] theorem hostTakes_breakTime (n : Nat) (s : State) : (hostTakes n s).breakTime = s.breakTime := rfl
@[simp] theorem hostTakes_mabTime (n : Nat) (s : State) : (hostTakes n s).mabTime = s.mabTime := rfl
@[simp] theorem hostTakes_rate (n : Nat) (s : State) : (hostTakes n s).rate = s.rate := rfl
@[simp] theorem hostTakes_serial (n : Nat) (s : State) : (hostTakes n s).serial = s.serial := rfl
@[simp] theorem hostTakes_capacity (n : Nat) (s : State) : (hostTakes n s).capacity = s.capacity := rfl
@[simp] theorem hostTakes_chan (n : Nat) (s : State) : (hostTakes n s).chan = s.chan := rfl
@[simp] theorem hostTakes_rx (n : Nat) (s : State) : (hostTakes n s).rx = s.rx := rfl
@[simp] theorem hostTakes_tx (n : Nat) (s : State) : (hostTakes n s).tx = s.tx.drop n := rfl
@[simp] theorem hostTakes_observed (n : Nat) (s : State) : (hostTakes n s).observed = s.observed := rfl
@[simp] theorem hostTakes_inputs (n : Nat) (s : State) : (hostTakes n s).inputs = s.inputs := rfl
@[simp] theorem hostTakes_choices (n : Nat) (s : State) : (hostTakes n s).choices = s.choices := rfl

/-! `storeConfigSize` -/

@[simp] theorem storeConfigSize_parse (b0 b1 : Byte) (s : State) : (storeConfigSize b0 b1 s).parse = s.parse := rfl
@[simp] theorem storeConfigSize_label (b0 b1 : Byte) (s : State) : (storeConfigSize b0 b1 s).label = s.label := rfl
@[simp] theorem storeConfigSize_length (b0 b1 : Byte) (s : State) : (storeConfigSize b0 b1 s).length = s.length := rfl
@[simp] theorem storeConfigSize_received (b0 b1 : Byte) (s : State) : (storeConfigSize b0 b1 s).received = s.received := rfl
@[simp] theorem storeConfigSize_cfgSize (b0 b1 : Byte) (s : State) : (storeConfigSize b0 b1 s).cfgSize = le16 b0 b1 := rfl
@[simp] theorem storeConfigSize_breakTime (b0 b1 : Byte) (s : State) : (storeConfigSize b0 b1 s).breakTime = s.breakTime := rfl
@[simp] theorem storeConfigSize_mabTime (b0 b1 : Byte) (s : State) : (storeConfigSize b0 b1 s).mabTime = s.mabTime := rfl
@[simp] theorem storeConfigSize_rate (b0 b1 : Byte) (s : State) : (storeConfigSize b0 b1 s).rate = s.rate := rfl
@[simp] theorem storeConfigSize_serial (b0 b1 : Byte) (s : State) : (storeConfigSize b0 b1 s).serial = s.serial := rfl
@[simp] theorem storeConfigSize_capacity (b0 b1 : Byte) (s : State) : (storeConfigSize b0 b1 s).capacity = s.capacity := rfl
@[simp] theorem storeConfigSize_chan (b0 b1 : Byte) (s : State) : (storeConfigSize b0 b1 s).chan = s.chan := rfl
@[simp] theorem storeConfigSize_rx (b0 b1 : Byte) (s : State) : (storeConfigSize b0 b1 s).rx = s.rx := rfl
@[simp] theorem storeConfigSize_tx (b0 b1 : Byte) (s : State) : (storeConfigSize b0 b1 s).tx = s.tx := rfl
@[simp] theorem storeConfigSize_observed (b0 b1 : Byte) (s : State) : (storeConfigSize b0 b1 s).observed = s.observed := rfl
@[simp] theorem storeConfigSize_inputs (b0 b1 : Byte) (s : State) : (storeConfigSize b0 b1 s).inputs = s.inputs := rfl
@[simp] theorem storeConfigSize_choices (b0 b1 : Byte) (s : State) : (storeConfigSize b0 b1 s).choices = s.choices := rfl

/-! `storeParameters` -/

@[simp] theorem storeParameters_parse (b m r : Byte) (s : State) : (storeParameters b m r s).parse = s.parse := rfl
@[simp] theorem storeParameters_label (b m r : Byte) (s : State) : (storeParameters b m r s).label = s.label := rfl
@[simp] theorem storeParameters_length (b m r : Byte) (s : State) : (storeParameters b m r s).length = s.length := rfl
@[simp] theorem storeParameters_received (b m r : Byte) (s : State) : (storeParameters b m r s).received = s.received := rfl
@[simp] theorem storeParameters_cfgSize (b m r : Byte) (s : State) : (storeParameters b m r s).cfgSize = s.cfgSize := rfl
@[simp] theorem storeParameters_breakTime (b m r : Byte) (s : State) : (storeParameters b m r s).breakTime = b := rfl
@[simp] theorem storeParameters_mabTime (b m r : Byte) (s : State) : (storeParameters b m r s).mabTime = m := rfl
@[simp] theorem storeParameters_rate (b m r : Byte) (s : State) : (storeParameters b m r s).rate = r := rfl
@[simp] theorem storeParameters_serial (b m r : Byte) (s : State) : (storeParameters b m r s).serial = s.serial := rfl
@[simp] theorem storeParameters_capacity (b m r : Byte) (s : State) : (storeParameters b m r s).capacity = s.capacity := rfl
@[simp] theorem storeParameters_chan (b m r : Byte) (s : State) : (storeParameters b m r s).chan = s.chan := rfl
@[simp] theorem storeParameters_rx (b m r : Byte) (s : State) : (storeParameters b m r s).rx = s.rx := rfl
@[simp] theorem storeParameters_tx (b m r : Byte) (s : State) : (storeParameters b m r s).tx = s.tx := rfl
@[simp] theorem storeParameters_observed (b m r : Byte) (s : State) : (storeParameters b m r s).observed = s.observed := rfl
@[simp] theorem storeParameters_inputs (b m r : Byte) (s : State) : (storeParameters b m r s).inputs = s.inputs := rfl
@[simp] theorem storeParameters_choices (b m r : Byte) (s : State) : (storeParameters b m r s).choices = s.choices := rfl

/-! `construct` -/

@[simp] theorem construct_parse (n : Nat) (serial : Serial) (s : State) : (construct n serial s).parse = .idle := rfl
@[simp] theorem construct_label (n : Nat) (serial : Serial) (s : State) : (construct n serial s).label = .invalid := rfl
@[simp] theorem construct_length (n : Nat) (serial : Serial) (s : State) : (construct n serial s).length = 0 := rfl
@[simp] theorem construct_received (n : Nat) (serial : Serial) (s : State) : (construct n serial s).received = 0 := rfl
@[simp] theorem construct_cfgSize (n : Nat) (serial : Serial) (s : State) : (construct n serial s).cfgSize = 0 := rfl
@[simp] theorem construct_breakTime (n : Nat) (serial : Serial) (s : State) : (construct n serial s).breakTime = Config.breakDefault := rfl
@[simp] theorem construct_mabTime (n : Nat) (serial : Serial) (s : State) : (construct n serial s).mabTime = Config.mabDefault := rfl
@[simp] theorem construct_rate (n : Nat) (serial : Serial) (s : State) : (construct n serial s).rate = Config.rateDefault := rfl
@[simp] theorem construct_serial (n : Nat) (serial : Serial) (s : State) : (construct n serial s).serial = serial := rfl
@[simp] theorem construct_capacity (n : Nat) (serial : Serial) (s : State) : (construct n serial s).capacity = n := rfl
@[simp] theorem construct_chan (n : Nat) (serial : Serial) (s : State) : (construct n serial s).chan = [] := rfl
@[simp] theorem construct_rx (n : Nat) (serial : Serial) (s : State) : (construct n serial s).rx = s.rx := rfl
@[simp] theorem construct_tx (n : Nat) (serial : Serial) (s : State) : (construct n serial s).tx = s.tx := rfl
@[simp] theorem construct_observed (n : Nat) (serial : Serial) (s : State) : (construct n serial s).observed = s.observed := rfl
@[simp] theorem construct_inputs (n : Nat) (serial : Serial) (s : State) : (construct n serial s).inputs = s.inputs := rfl
@[simp] theorem construct_choices (n : Nat) (serial : Serial) (s : State) : (construct n serial s).choices = s.choices := rfl

end Sys2Proof.Machine
end

