-- ==== Sys2Proof/Laws/Ops.lean ====
section
/-! SUPPORT. One lemma for each shared operation, saying once what it can do: the byte memory, the streams, the
registers, the encoder. -/

namespace Sys2Proof.Machine

/-! ## Outcomes -/

@[simp] theorem andThen_next {α β : Type} (a : α) (f : α → Host.Outcome β Fault Refusal) :
    andThen (.next a) f = f a := rfl

theorem andThen_eq_next {α β : Type} {r : Host.Outcome α Fault Refusal}
    {f : α → Host.Outcome β Fault Refusal} {b : β} (h : andThen r f = .next b) :
    ∃ a, r = .next a ∧ f a = .next b := by
  cases r with
  | next a => exact ⟨a, rfl, h⟩
  | fault e => exact nomatch h
  | refused e => exact nomatch h

/-! ## The byte memory -/

@[simp] theorem Memory.read_nil (a : Nat) : Memory.read [] a = 0 := rfl

/-- Every listed address is above `a`. -/
theorem Memory.read_of_all_above (m : Memory) (a : Nat) (h : ∀ c ∈ m, a < c.1) : m.read a = 0 := by
  induction m with
  | nil => rfl
  | cons c rest ih =>
    have hc : a < c.1 := h c (by simp)
    simp only [Memory.read]
    rw [if_neg (by omega)]
    exact ih fun d hd => h d (by simp [hd])

theorem Memory.wf_cons (a : Nat) (v : Byte) (rest : Memory) :
    Memory.wf ((a, v) :: rest) = true ↔ v ≠ 0 ∧ (∀ c ∈ rest, a < c.1) ∧ Memory.wf rest = true := by
  simp only [Memory.wf, Memory.unlisted, Bool.and_eq_true, List.all_eq_true, decide_eq_true_iff, and_assoc]
  exact and_congr decide_eq_true_iff Iff.rfl

/-- What `push` puts in front of higher addresses. -/
theorem Memory.read_push (m : Memory) (a : Nat) (v : Byte) (h : ∀ c ∈ m, a < c.1) (j : Nat) :
    (Memory.push a v m).read j = if j = a then v else m.read j := by
  unfold Memory.push
  by_cases hv : v = Memory.unlisted
  · rw [if_pos hv]
    split
    · subst j; rw [m.read_of_all_above a h, hv]; rfl
    · rfl
  · rw [if_neg hv]
    simp only [Memory.read, eq_comm]

theorem Memory.wf_push (m : Memory) (a : Nat) (v : Byte) (h : ∀ c ∈ m, a < c.1) (hm : m.wf = true) :
    (Memory.push a v m).wf = true := by
  unfold Memory.push
  split
  · exact hm
  · rename_i hv
    exact (Memory.wf_cons a v m).2 ⟨hv, h, hm⟩

theorem Memory.mem_push {m : Memory} {a : Nat} {v : Byte} {c : Host.Cell} (h : c ∈ Memory.push a v m) :
    c.1 = a ∨ c ∈ m := by
  unfold Memory.push at h
  split at h
  · exact .inr h
  · simp only [List.mem_cons] at h
    exact h.imp (fun e => by rw [e]) id

theorem Memory.mem_write {m : Memory} {a : Nat} {v : Byte} {c : Host.Cell} (h : c ∈ m.write a v) :
    c.1 = a ∨ c ∈ m := by
  induction m with
  | nil => exact Memory.mem_push h
  | cons d rest ih =>
    simp only [Memory.write] at h
    split at h
    · exact Memory.mem_push h
    · split at h
      · exact (Memory.mem_push h).imp id (List.mem_cons_of_mem _)
      · rcases List.mem_cons.1 h with h | h
        · exact .inr (by simp [h])
        · exact (ih h).imp id (List.mem_cons_of_mem _)

/-- A write keeps the canonical form. -/
theorem Memory.wf_write (m : Memory) (a : Nat) (v : Byte) (h : m.wf = true) : (m.write a v).wf = true := by
  induction m with
  | nil => exact Memory.wf_push [] a v (by simp) rfl
  | cons d rest ih =>
    obtain ⟨hd0, hlt, hrest⟩ := (Memory.wf_cons d.1 d.2 rest).1 h
    simp only [Memory.write]
    split
    · rename_i hlt'
      refine Memory.wf_push _ a v ?_ h
      intro c hc
      rcases List.mem_cons.1 hc with rfl | hc
      · exact hlt'
      · exact Nat.lt_trans hlt' (hlt c hc)
    · split
      · rename_i _ heq
        subst heq
        exact Memory.wf_push rest d.1 v hlt hrest
      · rename_i h1 h2
        refine (Memory.wf_cons d.1 d.2 _).2 ⟨hd0, ?_, ih hrest⟩
        intro c hc
        rcases Memory.mem_write hc with hc | hc
        · omega
        · exact hlt c hc

/-- Read after write: the byte written at that address, every other byte as before. -/
theorem Memory.read_write (m : Memory) (a : Nat) (v : Byte) (h : m.wf = true) (j : Nat) :
    (m.write a v).read j = if j = a then v else m.read j := by
  induction m with
  | nil => exact Memory.read_push [] a v (by simp) j
  | cons d rest ih =>
    obtain ⟨-, hlt, hrest⟩ := (Memory.wf_cons d.1 d.2 rest).1 h
    simp only [Memory.write]
    split
    · rename_i hlt'
      refine Memory.read_push _ a v ?_ j
      intro c hc
      rcases List.mem_cons.1 hc with rfl | hc
      · exact hlt'
      · exact Nat.lt_trans hlt' (hlt c hc)
    · split
      · rename_i _ heq
        subst heq
        rw [Memory.read_push rest d.1 v hlt]
        simp only [Memory.read]
        split <;> rename_i hj
        · rfl
        · rw [if_neg (fun e => hj e.symm)]
      · rename_i h1 h2
        simp only [Memory.read, ih hrest]
        split <;> split <;> first | rfl | omega

theorem Memory.below_iff (n : Nat) (m : Memory) : m.below n = true ↔ ∀ c ∈ m, c.1 < n := by
  simp [Memory.below]

/-- A write below `n` keeps every listed index below `n`. -/
theorem Memory.below_write (n : Nat) (m : Memory) (a : Nat) (v : Byte) (h : m.below n = true) (ha : a < n) :
    (m.write a v).below n = true := by
  rw [Memory.below_iff] at h ⊢
  intro c hc
  rcases Memory.mem_write hc with hc | hc
  · omega
  · exact h c hc

/-! ## The channel buffer -/

/-- `ChanWrite` touches `chan` and nothing else. -/
theorem chanWrite_eq (i : Nat) (v : Byte) (s : State) :
    chanWrite i v s = { s with chan := if i < s.capacity then s.chan.write i v else s.chan } := by
  unfold chanWrite
  split <;> rfl

/-- What a channel reads as after `ChanWrite`. -/
theorem chanWrite_read (i j : Nat) (v : Byte) (s : State) (h : s.chan.wf = true) :
    (chanWrite i v s).chan.read j = if j = i ∧ i < s.capacity then v else s.chan.read j := by
  rw [chanWrite_eq]
  by_cases hi : i < s.capacity <;> simp [hi, Memory.read_write _ _ _ h]

theorem chanWrite_wf (i : Nat) (v : Byte) (s : State) (h : s.chan.wf = true) :
    (chanWrite i v s).chan.wf = true := by
  rw [chanWrite_eq]
  by_cases hi : i < s.capacity <;> simp [hi, h, Memory.wf_write]

theorem chanWrite_below (i : Nat) (v : Byte) (s : State) (h : s.chan.below s.capacity = true) :
    (chanWrite i v s).chan.below s.capacity = true := by
  rw [chanWrite_eq]
  by_cases hi : i < s.capacity <;> simp [hi, h, Memory.below_write]

/-- Writing a run of channels touches `chan` and nothing else. -/
theorem writeChannels_eq (i : Nat) (p : List Byte) (s : State) :
    writeChannels i p s = { s with chan := (writeChannels i p s).chan } := by
  induction p generalizing i s with
  | nil => rfl
  | cons b p ih =>
    rw [writeChannels, ih]
    simp [chanWrite_eq]

theorem writeChannels_wf (i : Nat) (p : List Byte) (s : State) (h : s.chan.wf = true) :
    (writeChannels i p s).chan.wf = true := by
  induction p generalizing i s with
  | nil => exact h
  | cons b p ih => exact ih _ _ (chanWrite_wf i b s h)

theorem writeChannels_below (i : Nat) (p : List Byte) (s : State) (h : s.chan.below s.capacity = true) :
    (writeChannels i p s).chan.below s.capacity = true := by
  induction p generalizing i s with
  | nil => exact h
  | cons b p ih =>
    have := ih (i + 1) (chanWrite i b s) (by rw [chanWrite_eq] at *; simpa [chanWrite_eq] using chanWrite_below i b s h)
    rwa [show (chanWrite i b s).capacity = s.capacity by rw [chanWrite_eq]] at this

/-- What a channel reads as after a run of channels was written. -/
theorem writeChannels_read (i : Nat) (p : List Byte) (s : State) (h : s.chan.wf = true) (j : Nat) :
    (writeChannels i p s).chan.read j =
      if i ≤ j ∧ j < i + p.length ∧ j < s.capacity then p.getD (j - i) 0 else s.chan.read j := by
  induction p generalizing i s with
  | nil => simp [writeChannels]; omega
  | cons b p ih =>
    rw [writeChannels, ih _ _ (chanWrite_wf i b s h), chanWrite_read i j b s h,
      show (chanWrite i b s).capacity = s.capacity by rw [chanWrite_eq]]
    by_cases hj : j = i
    · subst hj
      simp
    · by_cases h1 : i ≤ j ∧ j < i + (p.length + 1) ∧ j < s.capacity
      · have : j - i = (j - (i + 1)) + 1 := by omega
        rw [if_pos (by omega), if_pos (by simpa using h1), this]
        rfl
      · rw [if_neg (by omega), if_neg (by simp [hj]), if_neg (by simpa using h1)]

/-! ## The streams -/

@[simp] theorem rxAvail_eq (s : State) : rxAvail s = s.rx.length := rfl

theorem rxRead1_cons {s : State} {b : Byte} {rest : List Byte} (h : s.rx = b :: rest) :
    rxRead1 s = .next (b, { s with rx := rest }) := by
  simp [rxRead1, h]

theorem rxReadN_append {s : State} {p rest : List Byte} (h : s.rx = p ++ rest) :
    rxReadN p.length s = .next (p, { s with rx := rest }) := by
  simp [rxReadN, h]

/-! ## Events and the encoder -/

/-- Handing an event to the caller touches the caller's record and nothing else. -/
theorem reportEvent_eq (e : Event) (s : State) :
    reportEvent e s = { s with observed := s.observed ++ if e = .none then [] else [.event e] } := by
  cases e <;> simp [reportEvent, report]

/-- `SendFrame` appends its bytes to `tx` and does nothing else. -/
theorem sendFrame_eq (l : Byte) (p : List Byte) (z : Nat) (s : State) :
    sendFrame l p z s = { s with
      tx := s.tx ++ (frameHeader l (outboundLength p z) ++ p ++ List.replicate z 0 ++ [Config.endByte]) } := by
  simp [sendFrame, txWrite1, txWriteN, frameHeader]

/-- The bytes a completed message puts on `tx`. -/
def replyBytes (l : Label) (s : State) : List Byte := (dispatchMessage l { s with tx := [] }).1.tx

/-- Dispatch appends the reply to `tx` and does nothing else. -/
theorem dispatchMessage_eq (l : Label) (s : State) :
    dispatchMessage l s = ({ s with tx := s.tx ++ replyBytes l s }, eventOf l) := by
  cases l <;>
    simp [dispatchMessage, replyBytes, sendParameterReply, sendSerialReply, sendFrame_eq, serialize,
      State.firmwareVersion]

end Sys2Proof.Machine
end

