-- ==== Sys2Proof/Laws/Frames.lean ====
section
/-! SUPPORT. What the one shared meaning of the inbound rows can do, said once for each way a frame can end, and
what each payload effect touches. -/

namespace Sys2Proof.Machine

/-- Where a frame stands at the read position, the bytes that do are its LABEL byte and its body. -/
theorem State.meets.bytes {s : State} {i : Instr} {body : Body} {rest : List Byte} (h : s.meets i rest)
    (hb : i.body? = some body) : s.parse = .idle ∧ s.rx = encodeBody i.labelByte body ++ rest :=
  ⟨h.1, by rw [h.2, encode_of_body hb]⟩

/-- Outside `Idle` a frame is one invocation. -/
theorem runFrame_of_ne_idle (l : Label) (f : List Byte → State → State) (body : Body) {s : State}
    (h : s.parse ≠ .idle) : runFrame l f body s = invoke s := if_neg h

/-- A frame with an oversized LENGTH leaves nothing but its label (R162). -/
theorem runFrame_oversized (l : Label) (f : List Byte → State → State) {len : Half} {label : Byte}
    {s : State} {rest : List Byte} (hi : s.parse = .idle)
    (hr : s.rx = encodeBody label (.oversized len) ++ rest) :
    runFrame l f (.oversized len) s = .next (s.afterFrame l (.oversized len) rest) := by
  have h := rxReadN_append (p := frameHeader label len) hr
  rw [runFrame, if_pos hi]
  simp only
  rw [show 4 = (frameHeader label len).length from rfl, h]
  simp [abandonFrame, State.afterFrame, hi]

/-- A frame with an accepted LENGTH has its payload's effect; then END decides between dispatch and nothing
(R96, R120). The effect is asked to leave the parse registers alone. -/
theorem runFrame_framed (l : Label) (f : List Byte → State → State) {len : Half} {p : List Byte}
    {label e : Byte} {s : State} {rest : List Byte} (hi : s.parse = .idle)
    (hr : s.rx = encodeBody label (.framed len p e) ++ rest)
    (hf : (f p (s.afterFrame l (.framed len p e) rest)).parse = .idle) :
    runFrame l f (.framed len p e) s =
      .next
        (let t := f p (s.afterFrame l (.framed len p e) rest)
        if e = Config.endByte then reportEvent (eventOf l) { t with tx := t.tx ++ replyBytes l t } else t) := by
  have h := rxReadN_append (p := frameHeader label len ++ p ++ [e]) hr
  have hl : p.length + 5 = (frameHeader label len ++ p ++ [e]).length := by simp [frameHeader]
  rw [runFrame, if_pos hi]
  simp only
  rw [hl, h]
  simp only [andThen_next, dispatchMessage_eq, abandonFrame]
  simp only [State.afterFrame] at hf ⊢
  revert hf
  generalize f p _ = t
  rcases t with ⟨⟩
  rintro ⟨⟩
  split <;> rfl

/-! What the payload effects touch. -/

theorem configPayload_of_ne_two {p : List Byte} (h : p.length ≠ 2) (s : State) : configPayload p s = s := by
  match p, h with
  | [], _ | [_], _ | _ :: _ :: _ :: _, _ => rfl

theorem configPayload_two (b0 b1 : Byte) (s : State) :
    configPayload [b0, b1] s = { s with cfgSize := le16 b0 b1 } := rfl

theorem parameterPayload_short {p : List Byte} (h : p.length < 5) (s : State) : parameterPayload p s = s := by
  match p, h with
  | [], _ | [_], _ | [_, _], _ | [_, _, _], _ | [_, _, _, _], _ => rfl

theorem parameterPayload_long {p : List Byte} (h : 5 ≤ p.length) (s : State) :
    parameterPayload p s =
      { s with breakTime := p.getD 2 0, mabTime := p.getD 3 0, rate := p.getD 4 0 } := by
  match p, h with
  | _ :: _ :: _ :: _ :: _ :: _, _ => rfl

theorem channelPayload_eq (p : List Byte) (s : State) :
    channelPayload p s = { s with chan := (channelPayload p s).chan } := writeChannels_eq 0 p.tail s

/-- Which channels a whole send_dmx_data payload sets (R117). -/
theorem channelPayload_read (p : List Byte) (s : State) (h : s.chan.wf = true) (j : Nat) :
    (channelPayload p s).chan.read j =
      if j + 1 < p.length ∧ j < s.capacity then p.getD (j + 1) 0 else s.chan.read j := by
  rw [channelPayload, writeChannels_read 0 p.tail s h]
  cases p with
  | nil => simp
  | cons b p => simp

/-- Only the two requests have a reply (R110). -/
theorem replyBytes_of_silent {l : Label} (h1 : l ≠ .getWidgetParameters) (h2 : l ≠ .getWidgetSerial)
    (s : State) : replyBytes l s = [] := by
  cases l <;> first | rfl | exact absurd rfl h1 | exact absurd rfl h2

/-- The parameter reply (R132). -/
theorem replyBytes_getWidgetParameters (s : State) :
    replyBytes .getWidgetParameters s =
      frameHeader Config.parameterReplyLabel (outboundLength (serialize s) s.cfgSize.toNat) ++ serialize s
        ++ List.replicate s.cfgSize.toNat 0 ++ [Config.endByte] := by
  simp [replyBytes, dispatchMessage, sendParameterReply, sendFrame_eq, serialize, State.firmwareVersion]

/-- The serial reply (R133). -/
theorem replyBytes_getWidgetSerial (s : State) :
    replyBytes .getWidgetSerial s =
      frameHeader Config.serialReplyLabel 4 ++ s.serial.bytes ++ [Config.endByte] := by
  simp [replyBytes, dispatchMessage, sendSerialReply, sendFrame_eq, Serial.bytes, outboundLength]

end Sys2Proof.Machine
end

