-- ==== Sys2Proof/Laws/Framing.lean ====
section
/-! SUPPORT. What the payload handlers and an invocation of `Process` can do, said once each. -/

namespace Sys2Proof.Machine

/-- The channels after `HDmx` has taken the bytes `p` from payload offset `r` on: the start code, at offset 0,
goes nowhere. -/
def dmxWrite (r : Nat) (p : List Byte) (s : State) : State :=
  if r = 0 then writeChannels 0 p.tail s else writeChannels (r - 1) p s

theorem dmxWrite_eq (r : Nat) (p : List Byte) (s : State) :
    dmxWrite r p s = { s with chan := (dmxWrite r p s).chan } := by
  unfold dmxWrite
  split
  · exact writeChannels_eq 0 p.tail s
  · exact writeChannels_eq (r - 1) p s

theorem dmxWrite_nil (r : Nat) (s : State) : dmxWrite r [] s = s := by
  unfold dmxWrite
  split <;> rfl

theorem dmxWrite_cons (r : Nat) (b : Byte) (p : List Byte) (s : State) :
    dmxWrite r (b :: p) s = dmxWrite (r + 1) p (if 1 ≤ r then chanWrite (r - 1) b s else s) := by
  unfold dmxWrite
  by_cases hr : r = 0
  · simp [hr]
  · rw [if_neg hr, if_neg (by omega), if_pos (by omega), writeChannels]
    simp only [Nat.add_sub_cancel, show r - 1 + 1 = r by omega]

/-- Writing channels looks at `capacity` and `chan` alone. -/
theorem chan_dmxWrite_congr (r : Nat) (p : List Byte) {s t : State} (hc : s.capacity = t.capacity)
    (hm : s.chan = t.chan) : (dmxWrite r p s).chan = (dmxWrite r p t).chan := by
  induction p generalizing r s t with
  | nil => simpa [dmxWrite_nil] using hm
  | cons b p ih =>
    rw [dmxWrite_cons, dmxWrite_cons]
    apply ih
    · split <;> simp [chanWrite_eq, hc]
    · split <;> simp [chanWrite_eq, hc, hm]

/-- Counting one byte and then `n` more. -/
theorem count_succ (r : Half) (n : Nat) : r + 1 + BitVec.ofNat 16 n = r + BitVec.ofNat 16 (n + 1) := by
  rw [BitVec.add_assoc]
  congr 1
  apply BitVec.eq_of_toNat_eq
  simp [Nat.add_comm]

/-- The loop of `HDmx` takes its bytes off `rx`, counts them, and touches nothing else but channels. -/
theorem hDmxLoop_frame (n : Nat) (s : State) (h : n ≤ s.rx.length) :
    ∃ m, hDmxLoop n s =
      .next { s with rx := s.rx.drop n, received := s.received + BitVec.ofNat 16 n, chan := m } := by
  induction n generalizing s with
  | zero => exact ⟨s.chan, by simp [hDmxLoop]⟩
  | succ n ih =>
    obtain ⟨b, rest, hrx⟩ : ∃ b rest, s.rx = b :: rest := by
      cases hrx : s.rx with
      | nil => simp [hrx] at h
      | cons b rest => exact ⟨b, rest, rfl⟩
    have hlen : n ≤ rest.length := by simp [hrx] at h; omega
    rw [hDmxLoop, rxRead1_cons hrx]
    simp only [andThen_next]
    split
    · obtain ⟨m, hm⟩ := ih { chanWrite (s.received.toNat - 1) b { s with rx := rest } with
        received := s.received + 1 } (by simpa [chanWrite_eq] using hlen)
      refine ⟨m, ?_⟩
      simp only [chanWrite_eq] at hm ⊢
      rw [hm, count_succ]
      simp [hrx]
    · obtain ⟨m, hm⟩ := ih { s with rx := rest, received := s.received + 1 } (by simpa using hlen)
      refine ⟨m, ?_⟩
      simp only at hm ⊢
      rw [hm, count_succ]
      simp [hrx]

/-- Which channels the loop of `HDmx` writes, as long as the counter does not wrap. -/
theorem hDmxLoop_eq (n : Nat) (s : State) (h : n ≤ s.rx.length) (hw : s.received.toNat + n < 65536) :
    hDmxLoop n s =
      .next { s with
        rx := s.rx.drop n
        received := s.received + BitVec.ofNat 16 n
        chan := (dmxWrite s.received.toNat (s.rx.take n) s).chan } := by
  induction n generalizing s with
  | zero => simp [hDmxLoop, dmxWrite_nil]
  | succ n ih =>
    obtain ⟨b, rest, hrx⟩ : ∃ b rest, s.rx = b :: rest := by
      cases hrx : s.rx with
      | nil => simp [hrx] at h
      | cons b rest => exact ⟨b, rest, rfl⟩
    have hlen : n ≤ rest.length := by simp [hrx] at h; omega
    have h1 : (s.received + 1).toNat = s.received.toNat + 1 := by
      rw [BitVec.toNat_add]
      simp
      omega
    rw [hDmxLoop, rxRead1_cons hrx]
    simp only [andThen_next]
    rw [ih _ (by split <;> simpa [chanWrite_eq] using hlen) (by split <;> simp [chanWrite_eq] <;> omega)]
    simp only [hrx, List.take_succ_cons, List.drop_succ_cons, dmxWrite_cons]
    split
    · simp only [chanWrite_eq, count_succ, h1]
      congr 2
      exact chan_dmxWrite_congr _ _ rfl rfl
    · simp only [count_succ, h1]
      congr 2
      exact chan_dmxWrite_congr _ _ rfl rfl

theorem burst_pos (k : Nat) (s : State) : 1 ≤ burst k s := by unfold burst; omega

theorem burst_le_avail (k : Nat) (s : State) (h : s.rx ≠ []) : burst k s ≤ s.rx.length := by
  have : 0 < s.rx.length := List.length_pos_of_ne_nil h
  simp only [burst, rxAvail_eq]
  omega

theorem burst_le_remaining (k : Nat) (s : State) (h : s.received.toNat < s.length.toNat) :
    burst k s ≤ s.length.toNat - s.received.toNat := by
  simp only [burst, rxAvail_eq]
  omega

/-- `HDiscard` takes one byte and counts it. -/
theorem hDiscard_cons {s : State} {b : Byte} {rest : List Byte} (h : s.rx = b :: rest) :
    hDiscard s = .next { s with rx := rest, received := s.received + 1 } := by
  simp [hDiscard, rxRead1_cons h]

/-- `HGetParams` with the size of its field written out. -/
theorem hGetParams_eq (s : State) :
    hGetParams s =
      if 2 ≤ s.length.toNat then
        if s.rx.length < 2 then .next s
        else
          andThen (rxReadN 2 s) fun
            | ([b0, b1], s1) => .next { storeConfigSize b0 b1 s1 with received := 2, parse := .awaitingEnd }
            | _ => .fault .rxUnderrun
      else hDiscard s := rfl

/-- `HStoreParams` with the size of its block written out. -/
theorem hStoreParams_eq (s : State) :
    hStoreParams s =
      if 5 ≤ s.length.toNat ∧ s.received = 0 then
        if s.rx.length < 5 then .next s
        else
          andThen (rxReadN 5 s) fun
            | ([_, _, b, m, r], s1) => .next { storeParameters b m r s1 with received := 5 }
            | _ => .fault .rxUnderrun
      else hDiscard s := rfl

/-- The waiting conditions with the sizes written out (40_framing_fsm.md R79). -/
theorem State.waiting_eq (s : State) :
    s.waiting =
      match s.parse, s.label with
      | .awaitingLength, _ => s.rx.length == 1
      | .awaitingPayload, .getWidgetParameters =>
        s.received != s.length && decide (2 ≤ s.length.toNat) && s.rx.length == 1
      | .awaitingPayload, .storeWidgetParameters =>
        decide (5 ≤ s.length.toNat) && s.received == 0 && decide (1 ≤ s.rx.length) && decide (s.rx.length < 5)
      | _, _ => false := rfl

/-- Everything one invocation of `Process` can do: the state after it and the event it returns. -/
inductive Invocation (k : Nat) (s : State) : State → Event → Prop
  | noBytes : s.rx = [] → Invocation k s s .none
  | start {rest : List Byte} : s.parse = .idle → s.rx = Config.startByte :: rest →
      Invocation k s { s with rx := rest, parse := .awaitingLabel } .none
  | noise {b : Byte} {rest : List Byte} : s.parse = .idle → s.rx = b :: rest → b ≠ Config.startByte →
      Invocation k s { s with rx := rest } .none
  | label {b : Byte} {rest : List Byte} : s.parse = .awaitingLabel → s.rx = b :: rest →
      Invocation k s { s with rx := rest, label := coerce b, parse := .awaitingLength } .none
  | lengthWaits {b : Byte} : s.parse = .awaitingLength → s.rx = [b] → Invocation k s s .none
  | lengthDropped {b0 b1 : Byte} {rest : List Byte} : s.parse = .awaitingLength → s.rx = b0 :: b1 :: rest →
      Config.maxLen < (le16 b0 b1).toNat → Invocation k s { s with rx := rest, parse := .idle } .none
  | lengthAccepted {b0 b1 : Byte} {rest : List Byte} : s.parse = .awaitingLength → s.rx = b0 :: b1 :: rest →
      (le16 b0 b1).toNat ≤ Config.maxLen →
      Invocation k s
        { s with rx := rest, length := le16 b0 b1, received := 0, parse := .awaitingPayload } .none
  | payloadDone : s.parse = .awaitingPayload → s.rx ≠ [] → s.received = s.length →
      Invocation k s { s with parse := .awaitingEnd } .none
  | discards {b : Byte} {rest : List Byte} : s.parse = .awaitingPayload → s.received ≠ s.length →
      s.rx = b :: rest → s.label ≠ .sendDmxData →
      (s.label = .getWidgetParameters → s.length.toNat < 2) →
      (s.label = .storeWidgetParameters → ¬ (5 ≤ s.length.toNat ∧ s.received = 0)) →
      Invocation k s { s with rx := rest, received := s.received + 1 } .none
  | sizeWaits {b : Byte} : s.parse = .awaitingPayload → s.received ≠ s.length →
      s.label = .getWidgetParameters → 2 ≤ s.length.toNat → s.rx = [b] → Invocation k s s .none
  | sizeTaken {b0 b1 : Byte} {rest : List Byte} : s.parse = .awaitingPayload → s.received ≠ s.length →
      s.label = .getWidgetParameters → 2 ≤ s.length.toNat → s.rx = b0 :: b1 :: rest →
      Invocation k s { s with rx := rest, cfgSize := le16 b0 b1, received := 2, parse := .awaitingEnd } .none
  | blockWaits : s.parse = .awaitingPayload → s.received ≠ s.length → s.label = .storeWidgetParameters →
      5 ≤ s.length.toNat → s.received = 0 → s.rx ≠ [] → s.rx.length < 5 → Invocation k s s .none
  | blockTaken {q0 q1 b m r : Byte} {rest : List Byte} : s.parse = .awaitingPayload → s.received ≠ s.length →
      s.label = .storeWidgetParameters → 5 ≤ s.length.toNat → s.received = 0 →
      s.rx = q0 :: q1 :: b :: m :: r :: rest →
      Invocation k s { s with rx := rest, breakTime := b, mabTime := m, rate := r, received := 5 } .none
  | channels {m : Memory} : s.parse = .awaitingPayload → s.received ≠ s.length → s.label = .sendDmxData →
      s.rx ≠ [] →
      (s.received.toNat + burst k s < 65536 →
        m = (dmxWrite s.received.toNat (s.rx.take (burst k s)) s).chan) →
      Invocation k s
        { s with
          rx := s.rx.drop (burst k s)
          received := s.received + BitVec.ofNat 16 (burst k s)
          chan := m } .none
  | completed {rest : List Byte} {e : Event} : s.parse = .awaitingEnd → s.rx = Config.endByte :: rest →
      e = eventOf s.label →
      Invocation k s { s with rx := rest, parse := .idle, tx := s.tx ++ replyBytes s.label s } e
  | wrongEnd {b : Byte} {rest : List Byte} : s.parse = .awaitingEnd → s.rx = b :: rest →
      b ≠ Config.endByte → Invocation k s { s with rx := rest, parse := .idle } .none

theorem rxReadN_two {s : State} {b0 b1 : Byte} {rest : List Byte} (h : s.rx = b0 :: b1 :: rest) :
    rxReadN 2 s = .next ([b0, b1], { s with rx := rest }) :=
  rxReadN_append (p := [b0, b1]) h

theorem rxReadN_five {s : State} {a b c d e : Byte} {rest : List Byte}
    (h : s.rx = a :: b :: c :: d :: e :: rest) :
    rxReadN 5 s = .next ([a, b, c, d, e], { s with rx := rest }) :=
  rxReadN_append (p := [a, b, c, d, e]) h

/-- A reply does not depend on what is in `rx` or on the parse state. -/
theorem replyBytes_congr (l : Label) {s t : State} (h1 : s.breakTime = t.breakTime)
    (h2 : s.mabTime = t.mabTime) (h3 : s.rate = t.rate) (h4 : s.cfgSize = t.cfgSize)
    (h5 : s.serial = t.serial) : replyBytes l s = replyBytes l t := by
  cases l <;>
    simp [replyBytes, dispatchMessage, sendParameterReply, sendSerialReply, sendFrame_eq, serialize,
      State.firmwareVersion, h1, h2, h3, h4, h5]

/-- A handler's invocation, once the payload is not used up. -/
theorem process_handler (k : Nat) {s : State} (hp : s.parse = .awaitingPayload) (hr : s.rx ≠ [])
    (h : s.received ≠ s.length) : process k s = andThen (handler k s) fun s1 => .next (s1, .none) := by
  simp [process, hr, hp, stepPayload, h]

/-- One handler call, within an invocation. -/
theorem invocation_handler (k : Nat) {s : State} (hp : s.parse = .awaitingPayload) (hr : s.rx ≠ [])
    (h : s.received ≠ s.length) : ∃ t, handler k s = .next t ∧ Invocation k s t .none := by
  obtain ⟨b, rest, hrx⟩ := List.exists_cons_of_ne_nil hr
  by_cases hdmx : s.label = .sendDmxData
  · have hb := burst_le_avail k s hr
    obtain ⟨m, hm⟩ := hDmxLoop_frame (burst k s) s hb
    refine ⟨_, by simpa [handler, hdmx, hDmx] using hm, .channels hp h hdmx hr fun hw => ?_⟩
    have := hDmxLoop_eq (burst k s) s hb hw
    rw [this] at hm
    injection hm with hm
    injection hm with _ _ _ _ _ _ _ _ _ _ hc
    exact hc.symm
  by_cases hget : s.label = .getWidgetParameters
  · by_cases h2 : 2 ≤ s.length.toNat
    · cases rest with
      | nil => exact ⟨s, by simp [handler, hget, hGetParams_eq, h2, hrx], .sizeWaits hp h hget h2 hrx⟩
      | cons b1 rest =>
        refine ⟨_, ?_, .sizeTaken hp h hget h2 hrx⟩
        simp [handler, hget, hGetParams_eq, h2, hrx, rxReadN_two hrx, storeConfigSize]
    · refine ⟨_, ?_, .discards hp h hrx hdmx (fun _ => by omega) (fun e => by simp [hget] at e)⟩
      simp [handler, hget, hGetParams_eq, h2, hDiscard_cons hrx]
  by_cases hst : s.label = .storeWidgetParameters
  · by_cases h5 : 5 ≤ s.length.toNat ∧ s.received = 0
    · by_cases hl : s.rx.length < 5
      · exact ⟨s, by simp only [handler, hst, hStoreParams_eq, if_pos h5, hl, if_true],
          .blockWaits hp h hst h5.1 h5.2 hr hl⟩
      · obtain ⟨q1, c, m, r, rest', rfl⟩ : ∃ q1 c m r rest', rest = q1 :: c :: m :: r :: rest' := by
          match rest, hrx with
          | q1 :: c :: m :: r :: rest', _ => exact ⟨q1, c, m, r, rest', rfl⟩
          | [], hrx | [_], hrx | [_, _], hrx | [_, _, _], hrx => simp [hrx] at hl
        refine ⟨_, ?_, .blockTaken hp h hst h5.1 h5.2 hrx⟩
        simp only [handler, hst, hStoreParams_eq, if_pos h5, if_neg hl, rxReadN_five hrx,
          andThen_next, storeParameters]
    · refine ⟨_, ?_, .discards hp h hrx hdmx (fun e => by simp [hst] at e) (fun _ => h5)⟩
      simp only [handler, hst, hStoreParams_eq, if_neg h5, hDiscard_cons hrx]
  · refine ⟨_, ?_, .discards hp h hrx hdmx (fun e => absurd e hget) (fun e => absurd e hst)⟩
    have : handler k s = hDiscard s := by
      unfold handler
      revert hdmx hget hst
      cases s.label <;> simp
    rw [this, hDiscard_cons hrx]

/-- An invocation always answers, in one of the ways listed. -/
theorem process_invocation (k : Nat) (s : State) :
    ∃ t e, process k s = .next (t, e) ∧ Invocation k s t e := by
  by_cases hr : s.rx = []
  · exact ⟨s, .none, by simp [process, hr], .noBytes hr⟩
  obtain ⟨b, rest, hrx⟩ := List.exists_cons_of_ne_nil hr
  cases hp : s.parse with
  | idle =>
    by_cases hb : b = Config.startByte
    · subst hb
      exact ⟨_, _, by simp [process, hrx, hp, stepIdle, rxRead1_cons hrx], .start hp hrx⟩
    · refine ⟨_, _, ?_, .noise hp hrx hb⟩
      simp [process, hrx, hp, stepIdle, rxRead1_cons hrx, hb]
  | awaitingLabel => exact ⟨_, _, by simp [process, hrx, hp, stepLabel, rxRead1_cons hrx], .label hp hrx⟩
  | awaitingLength =>
    cases rest with
    | nil => exact ⟨s, _, by simp [process, hrx, hp, stepLength], .lengthWaits hp hrx⟩
    | cons b1 rest =>
      by_cases hv : Config.maxLen < (le16 b b1).toNat
      · refine ⟨_, _, ?_, .lengthDropped hp hrx hv⟩
        simp [process, hrx, hp, stepLength, rxReadN_two hrx, hv, abandonFrame]
      · refine ⟨_, _, ?_, .lengthAccepted hp hrx (by omega)⟩
        simp [process, hrx, hp, stepLength, rxReadN_two hrx, hv]
  | awaitingPayload =>
    by_cases hd : s.received = s.length
    · exact ⟨_, _, by simp [process, hrx, hp, stepPayload, hd], .payloadDone hp hr hd⟩
    · obtain ⟨t, ht, hi⟩ := invocation_handler k hp hr hd
      exact ⟨t, .none, by rw [process_handler k hp hr hd, ht, andThen_next], hi⟩
  | awaitingEnd =>
    by_cases hb : b = Config.endByte
    · subst hb
      refine ⟨_, _, ?_, .completed hp hrx rfl⟩
      simp only [process, rxAvail_eq, hrx, List.length_cons, Nat.succ_ne_zero, hp, stepEnd,
        rxRead1_cons hrx, andThen_next, if_true, if_false, dispatchMessage_eq]
      simp only [replyBytes_congr s.label (s := { s with rx := rest, parse := .idle }) (t := s)
        rfl rfl rfl rfl rfl]
    · refine ⟨_, _, ?_, .wrongEnd hp hrx hb⟩
      simp [process, hrx, hp, stepEnd, rxRead1_cons hrx, hb, abandonFrame]

/-- What an invocation that answers has done. -/
theorem invocation_of_process {k : Nat} {s t : State} {e : Event} (h : process k s = .next (t, e)) :
    Invocation k s t e := by
  obtain ⟨t', e', h', hi⟩ := process_invocation k s
  rw [h] at h'
  cases h'
  exact hi

end Sys2Proof.Machine
end

