-- ==== Sys2Proof/Laws/PerInstr.lean ====
section
/-! SUPPORT. One statement for each instruction as syntax: how many bytes of `rx` it stands for (30_encoding.md
R50, R52): an inbound frame is at least its four header bytes and at most 605 bytes. -/

namespace Sys2Proof.Laws.EncodedLength

/-- The bytes of a well-formed instruction are at most 605, and at least four for an inbound frame. -/
def Statement (i : Instr) : Prop :=
  wellFormed i = true → (encode i).length ≤ 605 ∧ (i.isFrame = true → 4 ≤ (encode i).length)

/-- The bytes of one well-formed body. -/
theorem body_length (label : Byte) {taken : Nat → Nat} (ht : ∀ n, taken n ≤ n) {body : Body}
    (h : body.wellFormed taken = true) :
    (encodeBody label body).length ≤ 605 ∧ 4 ≤ (encodeBody label body).length := by
  cases body with
  | oversized len => simp [encodeBody, frameHeader]
  | framed len p e =>
    obtain ⟨hl, hp⟩ := (Body.wellFormed_framed taken len p e).1 h
    have := ht len.toNat
    simp only [encodeBody, frameHeader, List.length_append, List.length_cons, List.length_nil]
    omega

theorem of_whole {i : Instr} {label : Byte} {body : Body} (he : encode i = encodeBody label body)
    (hw : wellFormed i = body.wellFormed wholePayload) : Statement i := fun h => by
  obtain ⟨h1, h2⟩ := body_length label (taken := wholePayload) (fun _ => Nat.le_refl _) (hw ▸ h)
  exact ⟨he ▸ h1, fun _ => he ▸ h2⟩

theorem invalid (body : Body) : Statement (.invalid body) := of_whole rfl rfl
theorem reprogramFirmware (body : Body) : Statement (.reprogramFirmware body) := of_whole rfl rfl
theorem programFlashPage (body : Body) : Statement (.programFlashPage body) := of_whole rfl rfl

theorem getWidgetParameters (body : Body) : Statement (.getWidgetParameters body) := fun h => by
  obtain ⟨h1, h2⟩ := body_length 0x03 (taken := sizeField) (fun n => Nat.min_le_left n 2) h
  exact ⟨h1, fun _ => h2⟩

theorem storeWidgetParameters (body : Body) : Statement (.storeWidgetParameters body) := of_whole rfl rfl
theorem receiveDmxData (body : Body) : Statement (.receiveDmxData body) := of_whole rfl rfl
theorem sendDmxData (body : Body) : Statement (.sendDmxData body) := of_whole rfl rfl
theorem unsupported07 (body : Body) : Statement (.unsupported07 body) := of_whole rfl rfl
theorem unsupported08To09 (low : BitVec 1) (body : Body) : Statement (.unsupported08To09 low body) :=
  of_whole rfl rfl
theorem getWidgetSerial (body : Body) : Statement (.getWidgetSerial body) := of_whole rfl rfl
theorem unsupported0B (body : Body) : Statement (.unsupported0B body) := of_whole rfl rfl
theorem unsupported0CTo0F (low : BitVec 2) (body : Body) : Statement (.unsupported0CTo0F low body) :=
  of_whole rfl rfl
theorem unsupported10To1F (low : BitVec 4) (body : Body) : Statement (.unsupported10To1F low body) :=
  of_whole rfl rfl
theorem unsupported20To3F (low : BitVec 5) (body : Body) : Statement (.unsupported20To3F low body) :=
  of_whole rfl rfl
theorem unsupported40To7F (low : BitVec 6) (body : Body) : Statement (.unsupported40To7F low body) :=
  of_whole rfl rfl
theorem unsupported80ToFF (low : BitVec 7) (body : Body) : Statement (.unsupported80ToFF low body) :=
  of_whole rfl rfl
theorem parameterReply : Statement .parameterReply := fun _ => ⟨Nat.zero_le _, fun h => nomatch h⟩
theorem serialReply : Statement .serialReply := fun _ => ⟨Nat.zero_le _, fun h => nomatch h⟩
theorem dmxNotification (valid : Bool) (data : List Byte) : Statement (.dmxNotification valid data) :=
  fun _ => ⟨Nat.zero_le _, fun h => nomatch h⟩
theorem start : Statement .start := fun _ => ⟨by decide, fun h => nomatch h⟩
theorem endDelim : Statement .endDelim := fun _ => ⟨by decide, fun h => nomatch h⟩

end Sys2Proof.Laws.EncodedLength
end

