-- ==== Sys2Proof/Tests/Slice0.lean ====
section
/-! SUPPORT. The model's own tests. Expected results come from spec/: the vectors V1 to V57 of 95_test_vectors.md,
the tables of 30_encoding.md, or hand evaluation of a rule named in the docstring. The last part shows, for each
statement of Certificates/Slice0/Obligations.lean that has hypotheses, states and operands that meet them. -/

namespace Sys2Proof.Tests

open Sys2Proof.Machine

/-- The machine of the vectors: `N = 8`, SERIAL 78 56 34 12, fresh from `Construct`, these bytes in `rx`. -/
def fresh (bytes : List Byte) : State :=
  { State.reset with capacity := 8, serial := ⟨0x78, 0x56, 0x34, 0x12⟩, rx := bytes }

/-- The same, inside a frame. -/
def inside (p : ParseState) (l : Label) (length received : Half) (bytes : List Byte) : State :=
  { fresh bytes with parse := p, label := l, length := length, received := received }

/-- The same, with the next moves listed. -/
def asked (xs : List Input) (bytes : List Byte) : State := { fresh bytes with inputs := xs }

/-- The state an outcome answers; the machine of the vectors for a fault or a refusal. -/
def after (r : Host.Outcome State Fault Refusal) : State :=
  match r with
  | .next t => t
  | .fault _ | .refused _ => fresh []

/-- Whether an outcome is a next state. -/
def goesOn (r : Host.Outcome State Fault Refusal) : Bool :=
  match r with
  | .next _ => true
  | .fault _ | .refused _ => false

theorem eq_next_after {r : Host.Outcome State Fault Refusal} (h : goesOn r = true) : r = .next (after r) := by
  cases r with
  | next t => rfl
  | fault e => exact nomatch h
  | refused e => exact nomatch h

/-- What one step of the fetched instruction leaves: parse state, unread bytes, outbound bytes, the record. -/
def ran (s : State) : Bool × ParseState × List Byte × List Byte × List Observation :=
  let r := step { s with inputs := [.runInstr] }
  (goesOn r, (after r).parse, (after r).rx, (after r).tx, (after r).observed)

/-! ## Ill-formed instructions are refused -/

/-- An oversized LENGTH is above 600 (R52). -/
theorem test_wellFormed_oversized :
    wellFormed (.sendDmxData (.oversized 600)) = false ∧ wellFormed (.sendDmxData (.oversized 601)) = true := by
  decide

/-- An accepted LENGTH is at most 600 (R52). -/
theorem test_wellFormed_length :
    wellFormed (.getWidgetParameters (.framed 601 [0x00, 0x00] 0xE7)) = false ∧
      wellFormed (.getWidgetParameters (.framed 600 [0x00, 0x00] 0xE7)) = true := by decide

/-- The payload has LENGTH bytes (R53), for label 0x03 at most the two that are taken (R92). -/
theorem test_wellFormed_payload :
    wellFormed (.invalid (.framed 2 [0x00] 0xE7)) = false ∧
      wellFormed (.getWidgetParameters (.framed 3 [0x02, 0x00, 0x11] 0xE7)) = false ∧
      wellFormed (.getWidgetParameters (.framed 3 [0x02, 0x00] 0x11)) = true := by decide

/-- A notification's LENGTH fits 16 bits (R131, U6). -/
theorem test_wellFormed_notification :
    wellFormed (.dmxNotification true (List.replicate 65534 0)) = false ∧
      wellFormed (.dmxNotification true (List.replicate 599 0)) = true := by
  decide +kernel

/-! ## Decoding: words written out from the tables of 30_encoding.md -/

theorem test_decode_invalid : decodeAt .idle [0x7E, 0x00, 0x00, 0x00, 0xE7] =
    .ok (.invalid (.framed 0 [] 0xE7), []) := by decide
theorem test_decode_reprogramFirmware : decodeAt .idle [0x7E, 0x01, 0x00, 0x00, 0xE7] =
    .ok (.reprogramFirmware (.framed 0 [] 0xE7), []) := by decide
theorem test_decode_programFlashPage : decodeAt .idle [0x7E, 0x02, 0x02, 0x00, 0xDE, 0xAD, 0xE7] =
    .ok (.programFlashPage (.framed 2 [0xDE, 0xAD] 0xE7), []) := by decide
theorem test_decode_getWidgetParameters : decodeAt .idle [0x7E, 0x03, 0x03, 0x00, 0x02, 0x00, 0x11, 0xE7] =
    .ok (.getWidgetParameters (.framed 3 [0x02, 0x00] 0x11), [0xE7]) := by decide
theorem test_decode_storeWidgetParameters :
    decodeAt .idle [0x7E, 0x04, 0x05, 0x00, 0x00, 0x00, 0x05, 0x02, 0x3C, 0xE7] =
      .ok (.storeWidgetParameters (.framed 5 [0x00, 0x00, 0x05, 0x02, 0x3C] 0xE7), []) := by decide
theorem test_decode_receiveDmxData : decodeAt .idle [0x7E, 0x05, 0x02, 0x00, 0x00, 0x00, 0xE7] =
    .ok (.receiveDmxData (.framed 2 [0x00, 0x00] 0xE7), []) := by decide
theorem test_decode_sendDmxData : decodeAt .idle [0x7E, 0x06, 0x03, 0x00, 0x00, 0xFF, 0x80, 0xE7] =
    .ok (.sendDmxData (.framed 3 [0x00, 0xFF, 0x80] 0xE7), []) := by decide
theorem test_decode_unsupported07 : decodeAt .idle [0x7E, 0x07, 0x01, 0x00, 0x55, 0xE7] =
    .ok (.unsupported07 (.framed 1 [0x55] 0xE7), []) := by decide
theorem test_decode_unsupported08To09 : decodeAt .idle [0x7E, 0x09, 0x02, 0x00, 0x7E, 0xE7, 0xE7] =
    .ok (.unsupported08To09 1 (.framed 2 [0x7E, 0xE7] 0xE7), []) := by decide
theorem test_decode_getWidgetSerial : decodeAt .idle [0x7E, 0x0A, 0x00, 0x00, 0xE7] =
    .ok (.getWidgetSerial (.framed 0 [] 0xE7), []) := by decide
theorem test_decode_unsupported0B : decodeAt .idle [0x7E, 0x0B, 0x59, 0x02] =
    .ok (.unsupported0B (.oversized 601), []) := by decide
theorem test_decode_unsupported0CTo0F : decodeAt .idle [0x7E, 0x0E, 0x00, 0x00, 0xE7] =
    .ok (.unsupported0CTo0F 2 (.framed 0 [] 0xE7), []) := by decide
theorem test_decode_unsupported10To1F : decodeAt .idle [0x7E, 0x1F, 0x00, 0x00, 0xE7] =
    .ok (.unsupported10To1F 15 (.framed 0 [] 0xE7), []) := by decide
theorem test_decode_unsupported20To3F : decodeAt .idle [0x7E, 0x21, 0x00, 0x00, 0xE7] =
    .ok (.unsupported20To3F 1 (.framed 0 [] 0xE7), []) := by decide
theorem test_decode_unsupported40To7F : decodeAt .idle [0x7E, 0x7E, 0x00, 0x00, 0xE7] =
    .ok (.unsupported40To7F 0x3E (.framed 0 [] 0xE7), []) := by decide
theorem test_decode_unsupported80ToFF : decodeAt .idle [0x7E, 0xE7, 0x00, 0x00, 0xE7] =
    .ok (.unsupported80ToFF 0x67 (.framed 0 [] 0xE7), []) := by decide
theorem test_decode_delimiters : decodeAt .idle [0x7E, 0x06] = .ok (.start, [0x06]) ∧
    decodeAt .awaitingEnd [0xE7, 0x7E] = .ok (.endDelim, [0x7E]) := by decide

/-- What is no instruction is rejected by name (R51, R71, R75). -/
theorem test_decode_rejects :
    decodeAt .idle [] = .error .noInput ∧ decodeAt .idle [0xE7] = .error (.notStart 0xE7) ∧
      decodeAt .awaitingEnd [0x7E] = .error (.notEnd 0x7E) ∧
      decodeAt .awaitingPayload [0x7E, 0xE7] = .error .insideFrame := by decide

/-- The words of spec/opcode_table.json: a LABEL byte is its row, the two delimiters themselves (R65, log 26). -/
theorem test_decodeTableWord :
    decodeTableWord 8 0x06 = some (.sendDmxData (.framed 0 [] 0xE7)) ∧
      decodeTableWord 8 0x80 = some (.unsupported80ToFF 0 (.framed 0 [] 0xE7)) ∧
      decodeTableWord 8 0x7E = some .start ∧ decodeTableWord 8 0xE7 = some .endDelim := by decide

/-- The 32 bits of the header in stream order, START first (R65): LENGTH 2 of label 0x03. -/
theorem test_decodeTableWord_header :
    decodeTableWord 32 0x0002037E = some (.getWidgetParameters (.framed 2 [0x00, 0x00] 0xE7)) := by decide

/-! ## One instruction, one step -/

/-- V34 and V39's bytes with label 0x00: consumed, no event, nothing sent. -/
theorem test_invalid : ran (fresh [0x7E, 0x00, 0x01, 0x00, 0xAA, 0xE7]) = (true, .idle, [], [], []) := by
  decide +kernel
/-- V35. -/
theorem test_reprogramFirmware :
    ran (fresh [0x7E, 0x01, 0x00, 0x00, 0xE7]) = (true, .idle, [], [], []) := by decide +kernel
/-- V36. -/
theorem test_programFlashPage :
    ran (fresh [0x7E, 0x02, 0x02, 0x00, 0xDE, 0xAD, 0xE7]) = (true, .idle, [], [], []) := by decide +kernel
/-- V21. -/
theorem test_getWidgetParameters :
    ran (fresh [0x7E, 0x03, 0x02, 0x00, 0x03, 0x00, 0xE7]) =
      (true, .idle, [],
        [0x7E, 0x03, 0x08, 0x00, 0x00, 0x01, 0x09, 0x01, 0x28, 0x00, 0x00, 0x00, 0xE7],
        [.event .parametersRequested]) := by decide +kernel
/-- V23 and V24d: a wrong END brings no reply, and the size stays, low byte first. -/
theorem test_getWidgetParameters_wrongEnd :
    ran (fresh [0x7E, 0x03, 0x02, 0x00, 0x04, 0x01, 0x00]) = (true, .idle, [], [], []) ∧
      (after (step (asked [.runInstr] [0x7E, 0x03, 0x02, 0x00, 0x04, 0x01, 0x00]))).cfgSize = 260 ∧
      ran (fresh [0x7E, 0x03, 0x03, 0x00, 0x02, 0x00, 0x11, 0xE7]) = (true, .idle, [0xE7], [], []) := by
  decide +kernel
/-- V26. -/
theorem test_storeWidgetParameters :
    snapshot (after (step
      (asked [.runInstr] [0x7E, 0x04, 0x07, 0x00, 0xAA, 0xBB, 0x05, 0x02, 0x3C, 0x99, 0x98, 0xE7]))) =
      ⟨0x0100, 5, 2, 60⟩ := by decide +kernel
/-- V27 and V29a: a wrong END reports nothing; a payload shorter than five stores nothing. -/
theorem test_storeWidgetParameters_edges :
    ran (fresh [0x7E, 0x04, 0x05, 0x00, 0x00, 0x00, 0x05, 0x02, 0x3C, 0x00]) = (true, .idle, [], [], []) ∧
      snapshot (after (step (asked [.runInstr] [0x7E, 0x04, 0x03, 0x00, 0xAA, 0xBB, 0x05, 0xE7]))) =
        ⟨0x0100, 9, 1, 40⟩ := by decide +kernel
/-- V37. -/
theorem test_receiveDmxData :
    (after (step (asked [.runInstr] [0x7E, 0x05, 0x02, 0x00, 0x00, 0x42, 0xE7]))).chan = [] ∧
      ran (fresh [0x7E, 0x05, 0x02, 0x00, 0x00, 0x42, 0xE7]) = (true, .idle, [], [], []) := by decide +kernel
/-- V12. -/
theorem test_sendDmxData :
    (after (step (asked [.runInstr] [0x7E, 0x06, 0x03, 0x00, 0x00, 0xFF, 0x80, 0xE7]))).chan =
        [(0, 0xFF), (1, 0x80)] ∧
      ran (fresh [0x7E, 0x06, 0x03, 0x00, 0x00, 0xFF, 0x80, 0xE7]) =
        (true, .idle, [], [], [.event .dmxData]) := by decide +kernel
/-- V14: `N = 2`, channels 3 and 4 are dropped. -/
theorem test_sendDmxData_bounded :
    (after (step { asked [.runInstr] [0x7E, 0x06, 0x05, 0x00, 0x00, 0x01, 0x02, 0x03, 0x04, 0xE7] with
      capacity := 2 })).chan = [(0, 0x01), (1, 0x02)] := by decide +kernel
/-- V38. -/
theorem test_unsupported07 :
    ran (fresh [0x7E, 0x07, 0x01, 0x00, 0x55, 0xE7]) = (true, .idle, [], [], []) := by decide +kernel
/-- V39. -/
theorem test_unsupported08To09 :
    ran (fresh [0x7E, 0x09, 0x02, 0x00, 0x7E, 0xE7, 0xE7]) = (true, .idle, [], [], []) := by decide +kernel
/-- V30. -/
theorem test_getWidgetSerial :
    ran (fresh [0x7E, 0x0A, 0x00, 0x00, 0xE7]) =
      (true, .idle, [], [0x7E, 0x0A, 0x04, 0x00, 0x78, 0x56, 0x34, 0x12, 0xE7], [.event .serialRequested]) := by
  decide +kernel
/-- V57. -/
theorem test_unsupported0B : ran (fresh [0x7E, 0x0B, 0x59, 0x02]) = (true, .idle, [], [], []) := by
  decide +kernel
/-- R119: the raw label is not kept. -/
theorem test_unsupported0CTo0F :
    (after (step (asked [.runInstr] [0x7E, 0x0C, 0x00, 0x00, 0xE7]))).label = .invalid := by decide +kernel
/-- R119. -/
theorem test_unsupported10To1F :
    ran (fresh [0x7E, 0x13, 0x01, 0x00, 0x03, 0xE7]) = (true, .idle, [], [], []) := by decide +kernel
/-- R119. -/
theorem test_unsupported20To3F :
    ran (fresh [0x7E, 0x24, 0x01, 0x00, 0x04, 0xE7]) = (true, .idle, [], [], []) := by decide +kernel
/-- V11. -/
theorem test_unsupported40To7F :
    ran (fresh [0x7E, 0x7E, 0x00, 0x00, 0xE7]) = (true, .idle, [], [], []) := by decide +kernel
/-- V38. -/
theorem test_unsupported80ToFF :
    ran (fresh [0x7E, 0xFF, 0x00, 0x00, 0xE7]) = (true, .idle, [], [], []) := by decide +kernel
/-- V8: an oversized LENGTH leaves the bytes after it to be scanned in `Idle`. -/
theorem test_oversized : ran (fresh [0x7E, 0x06, 0xFF, 0xFF, 0x00]) = (true, .idle, [0x00], [], []) := by
  decide +kernel
/-- V20's reply. -/
theorem test_parameterReply :
    (after (exec .parameterReply (fresh []))).tx =
      [0x7E, 0x03, 0x05, 0x00, 0x00, 0x01, 0x09, 0x01, 0x28, 0xE7] := by decide +kernel
/-- V30's reply. -/
theorem test_serialReply :
    (after (exec .serialReply (fresh []))).tx =
      [0x7E, 0x0A, 0x04, 0x00, 0x78, 0x56, 0x34, 0x12, 0xE7] := by decide +kernel
/-- V42, with the flag byte left free (D13). -/
theorem test_dmxNotification :
    (after (exec (.dmxNotification true [0x10, 0x20, 0x30]) (fresh []))).tx =
      [0x7E, 0x05, 0x05, 0x00, Config.validFlagByte true, 0x00, 0x10, 0x20, 0x30, 0xE7] := rfl
/-- V3. -/
theorem test_start : ran (fresh [0x7E]) = (true, .awaitingLabel, [], [], []) := by decide +kernel
/-- R110: END completes a get_widget_serial. -/
theorem test_endDelim :
    ran (inside .awaitingEnd .getWidgetSerial 0 0 [0xE7, 0x55]) =
      (true, .idle, [0x55], [0x7E, 0x0A, 0x04, 0x00, 0x78, 0x56, 0x34, 0x12, 0xE7],
        [.event .serialRequested]) := by decide +kernel

/-! ## `Process`, byte by byte -/

/-- V13: one byte at a time, the event at the eighth invocation. -/
theorem test_process_dmx :
    let s := fresh [0x7E, 0x06, 0x03, 0x00, 0x00, 0xFF, 0x80, 0xE7]
    (after (polls [1, 1, 1, 1, 1, 1, 1] s)).observed = [] ∧
      (after (polls [1, 1, 1, 1, 1, 1, 1, 1] s)).observed = [.event .dmxData] ∧
      (after (polls [1, 1, 1, 1, 1, 1, 1, 1] s)).chan = [(0, 0xFF), (1, 0x80)] := by decide +kernel
/-- V28: four of five bytes wait. -/
theorem test_process_waits :
    let s := after (polls [1, 1, 1, 1, 1] (fresh [0x7E, 0x04, 0x05, 0x00, 0x00, 0x00, 0x05, 0x02]))
    s.rx = [0x00, 0x00, 0x05, 0x02] ∧ s.received = 0 ∧ s.quiescent = true := by decide +kernel
/-- V55 and V56: 600 zeros are not enough, 601 are. -/
theorem test_process_resynchronise :
    let s := inside .awaitingPayload .sendDmxData 600 0 []
    (after (polls [600, 1] (hostSends (List.replicate 600 0) s))).parse = .awaitingPayload ∧
      (after (polls [600, 1, 1] (hostSends (List.replicate 601 0) s))).parse = .idle := by decide +kernel

/-! ## The accessors -/

/-- V46 and V48, `N = 8`. -/
theorem test_readChannel :
    (after (step (asked [.readChannel 8] []))).observed = [.channel 8 0] ∧
      step (asked [.readChannel 0] []) = .fault (.readOutOfRange 0) ∧
      step (asked [.readChannel 9] []) = .fault (.readOutOfRange 9) := ⟨by decide +kernel, rfl, rfl⟩
/-- V49. -/
theorem test_getParameters :
    (after (step (asked [.getParameters] []))).observed = [.parameters ⟨0x0100, 9, 1, 40⟩] := by decide +kernel

/-! ## Every hypothesis is met somewhere -/

/-- A whole serial request, and the same request inside another frame, where END is due. -/
theorem witness_StepRunsDecodedInstruction :
    ∃ (s : State) (i : Instr) (rest : List Byte) (xs : List Input),
      s.inputs = .runInstr :: xs ∧ decodeAt s.parse s.rx = .ok (i, rest) :=
  ⟨asked [.runInstr] [0x7E, 0x0A, 0x00, 0x00, 0xE7, 0x55], _, _, _, rfl, rfl⟩

theorem witness_PlacedTableWordIsRun : ∃ nbits w i, decodeTableWord nbits w = some i :=
  ⟨8, 0xFF, .unsupported80ToFF 0x7F (.framed 0 [] 0xE7), by decide⟩

theorem witness_StepPollsAndUploads :
    (∃ s : State, s.inputs = []) ∧ (∃ (s : State) (xs : List Input), s.inputs = .process :: xs) ∧
      ∃ (s : State) (xs : List Input), s.inputs = .uploadDmx true [0x10] :: xs :=
  ⟨⟨fresh [0x7E], rfl⟩, ⟨asked [.process] [0x7E], _, rfl⟩, ⟨asked [.uploadDmx true [0x10]] [], _, rfl⟩⟩

theorem witness_EnvironmentMovesOnlyStreams :
    (∃ (s : State) (xs : List Input), s.inputs = .hostSends [0x7E, 0x06] :: xs) ∧
      ∃ (s : State) (xs : List Input), s.inputs = .hostTakes 1 :: xs ∧ s.tx = [0x7E, 0x0A] :=
  ⟨⟨asked [.hostSends [0x7E, 0x06]] [], _, rfl⟩,
    ⟨{ asked [.hostTakes 1] [] with tx := [0x7E, 0x0A] }, _, rfl, rfl⟩⟩

theorem witness_ConstructGivesResetValues :
    ∃ (s : State) (xs : List Input), s.inputs = .construct 2 ⟨1, 2, 3, 4⟩ :: xs ∧ s.rx ≠ [] :=
  ⟨asked [.construct 2 ⟨1, 2, 3, 4⟩] [0x7E], _, rfl, by decide⟩

/-- The two ends of the channel numbers, and one beyond each. -/
theorem witness_ReadChannelInRangeOrFault :
    (∃ (s : State) (xs : List Input), s.inputs = .readChannel 1 :: xs ∧ 1 ≤ 1 ∧ 1 ≤ s.capacity) ∧
      (∃ (s : State) (xs : List Input), s.inputs = .readChannel 8 :: xs ∧ 1 ≤ 8 ∧ 8 ≤ s.capacity) ∧
      (∃ (s : State) (xs : List Input), s.inputs = .readChannel 0 :: xs) ∧
      ∃ (s : State) (xs : List Input), s.inputs = .readChannel 9 :: xs ∧ s.capacity < 9 :=
  ⟨⟨asked [.readChannel 1] [], _, rfl, by decide⟩, ⟨asked [.readChannel 8] [], _, rfl, by decide⟩,
    ⟨asked [.readChannel 0] [], _, rfl⟩, ⟨asked [.readChannel 9] [], _, rfl, by decide⟩⟩

theorem witness_GetParametersReturnsSnapshot : ∃ (s : State) (xs : List Input), s.inputs = .getParameters :: xs :=
  ⟨asked [.getParameters] [], _, rfl⟩

/-- 0x07 and 0x0B are no label's code. -/
theorem witness_CoercionKeepsOnlyNamedCodes :
    (∀ l : Label, (0x07 : Byte) ≠ l.code) ∧ ∀ l : Label, (0x0B : Byte) ≠ l.code :=
  ⟨fun l => by cases l <;> decide, fun l => by cases l <;> decide⟩

theorem witness_DelimitersDecodeByPosition :
    (∃ bytes rest, decodeAt .idle bytes = .ok (.start, rest)) ∧
      (∃ bytes rest, decodeAt .awaitingEnd bytes = .ok (.endDelim, rest)) ∧
      ∃ p : ParseState, p ≠ .idle ∧ p ≠ .awaitingEnd :=
  ⟨⟨[0x7E], [], rfl⟩, ⟨[0xE7], [], rfl⟩, ⟨.awaitingPayload, by decide⟩⟩

/-- The shortest frame, a frame with LENGTH 600, and one with LENGTH 601. -/
theorem witness_DecodeOfEncodedFrame :
    (∃ i : Instr, i.isFrame = true ∧ wellFormed i = true ∧ (encode i).length = 5) ∧
      (∃ i : Instr, i.isFrame = true ∧ wellFormed i = true ∧ (encode i).length = 605) ∧
      ∃ i : Instr, i.isFrame = true ∧ wellFormed i = true ∧ (encode i).length = 4 :=
  ⟨⟨.getWidgetSerial (.framed 0 [] 0xE7), by decide⟩,
    ⟨.sendDmxData (.framed 600 (List.replicate 600 0x7E) 0xE7), rfl, by decide +kernel, by decide +kernel⟩,
    ⟨.unsupported80ToFF 0x7F (.oversized 601), by decide⟩⟩

theorem witness_DecodedFrameIsItsBytes :
    ∃ bytes rest i, decodeFrame bytes = .ok (i, rest) :=
  ⟨[0x7E, 0x06, 0x02, 0x00, 0x00, 0x42, 0xE7, 0x55], _, _, rfl⟩

theorem witness_ProcessWithoutBytesDoesNothing : ∃ s : State, s.rx = [] ∧ s.parse = .awaitingPayload :=
  ⟨inside .awaitingPayload .sendDmxData 2 2 [], rfl, rfl⟩

theorem witness_IdleStepScansForStart :
    (∃ (s : State) (rest : List Byte), s.parse = .idle ∧ s.rx = 0x7E :: rest) ∧
      ∃ (s : State) (rest : List Byte), s.parse = .idle ∧ s.rx = 0xE7 :: rest :=
  ⟨⟨fresh [0x7E, 0x06], _, rfl, rfl⟩, ⟨fresh [0xE7], _, rfl, rfl⟩⟩

theorem witness_LabelStepCoerces :
    ∃ (s : State) (rest : List Byte), s.parse = .awaitingLabel ∧ s.rx = 0x7E :: rest :=
  ⟨inside .awaitingLabel .invalid 0 0 [0x7E, 0x00], _, rfl, rfl⟩

/-- LENGTH 601 and LENGTH 65535. -/
theorem witness_OversizedLengthIsDropped :
    (∃ (s : State) (b0 b1 : Byte) (rest : List Byte), s.parse = .awaitingLength ∧ s.rx = b0 :: b1 :: rest ∧
      600 < b0.toNat + 256 * b1.toNat ∧ b0.toNat + 256 * b1.toNat = 601) ∧
      ∃ (s : State) (b0 b1 : Byte) (rest : List Byte), s.parse = .awaitingLength ∧ s.rx = b0 :: b1 :: rest ∧
        600 < b0.toNat + 256 * b1.toNat ∧ b0.toNat + 256 * b1.toNat = 65535 :=
  ⟨⟨inside .awaitingLength .sendDmxData 0 0 [0x59, 0x02], _, _, _, rfl, rfl, by decide⟩,
    ⟨inside .awaitingLength .sendDmxData 0 0 [0xFF, 0xFF, 0x00], _, _, _, rfl, rfl, by decide⟩⟩

/-- One byte waiting; LENGTH 0 and LENGTH 600. -/
theorem witness_LengthStepWaitsOrAccepts :
    (∃ (s : State) (b : Byte), s.parse = .awaitingLength ∧ s.rx = [b]) ∧
      (∃ (s : State) (b0 b1 : Byte) (rest : List Byte), s.parse = .awaitingLength ∧ s.rx = b0 :: b1 :: rest ∧
        b0.toNat + 256 * b1.toNat = 0) ∧
      ∃ (s : State) (b0 b1 : Byte) (rest : List Byte), s.parse = .awaitingLength ∧ s.rx = b0 :: b1 :: rest ∧
        b0.toNat + 256 * b1.toNat = 600 :=
  ⟨⟨inside .awaitingLength .sendDmxData 0 0 [0x03], _, rfl, rfl⟩,
    ⟨inside .awaitingLength .sendDmxData 0 0 [0x00, 0x00], _, _, _, rfl, rfl, by decide⟩,
    ⟨inside .awaitingLength .sendDmxData 0 0 [0x58, 0x02], _, _, _, rfl, rfl, by decide⟩⟩

theorem witness_UsedUpPayloadAwaitsEnd :
    ∃ s : State, s.parse = .awaitingPayload ∧ s.rx ≠ [] ∧ s.received = s.length :=
  ⟨inside .awaitingPayload .getWidgetSerial 0 0 [0xE7], rfl, by decide, rfl⟩

theorem witness_DiscardTakesOneByte :
    ∃ (s : State) (b : Byte) (rest : List Byte),
      s.label ∈ [Label.invalid, .reprogramFirmware, .programFlashPage, .receiveDmxData, .getWidgetSerial] ∧
        s.parse = .awaitingPayload ∧ s.received.toNat < s.length.toNat ∧ s.rx = b :: rest :=
  ⟨inside .awaitingPayload .getWidgetSerial 600 599 [0xE7], _, _, by decide, rfl, by decide, rfl⟩

/-- LENGTH 2 with both bytes and with one; LENGTH 600; LENGTH 1. -/
theorem witness_GetParamsHandlerTakesSize :
    (∃ (s : State) (b0 b1 : Byte) (rest : List Byte), s.parse = .awaitingPayload ∧
      s.label = .getWidgetParameters ∧ s.received = 0 ∧ s.length.toNat = 2 ∧ s.rx = b0 :: b1 :: rest) ∧
      (∃ (s : State) (b0 b1 : Byte) (rest : List Byte), s.parse = .awaitingPayload ∧
        s.label = .getWidgetParameters ∧ s.received = 0 ∧ s.length.toNat = 600 ∧ s.rx = b0 :: b1 :: rest) ∧
      (∃ (s : State) (b : Byte), s.parse = .awaitingPayload ∧ s.label = .getWidgetParameters ∧
        s.received = 0 ∧ 2 ≤ s.length.toNat ∧ s.rx = [b]) ∧
      ∃ (s : State) (b : Byte) (rest : List Byte), s.parse = .awaitingPayload ∧
        s.label = .getWidgetParameters ∧ s.received = 0 ∧ s.length = 1 ∧ s.rx = b :: rest :=
  ⟨⟨inside .awaitingPayload .getWidgetParameters 2 0 [0x04, 0x01], _, _, _, rfl, rfl, rfl, rfl, rfl⟩,
    ⟨inside .awaitingPayload .getWidgetParameters 600 0 [0x04, 0x01, 0x00], _, _, _, rfl, rfl, rfl, rfl, rfl⟩,
    ⟨inside .awaitingPayload .getWidgetParameters 2 0 [0x05], _, rfl, rfl, rfl, by decide, rfl⟩,
    ⟨inside .awaitingPayload .getWidgetParameters 1 0 [0x09, 0xE7], _, _, rfl, rfl, rfl, rfl, rfl⟩⟩

/-- LENGTH 5 with five bytes and with four; LENGTH 4; the byte after the block. -/
theorem witness_StoreParamsHandlerTakesBlock :
    (∃ (s : State) (q0 q1 b m r : Byte) (rest : List Byte), s.parse = .awaitingPayload ∧
      s.label = .storeWidgetParameters ∧ s.length.toNat = 5 ∧ s.received = 0 ∧
      s.rx = q0 :: q1 :: b :: m :: r :: rest) ∧
      (∃ s : State, s.parse = .awaitingPayload ∧ s.label = .storeWidgetParameters ∧ 5 ≤ s.length.toNat ∧
        s.received = 0 ∧ s.rx.length = 4) ∧
      (∃ (s : State) (b : Byte) (rest : List Byte), s.parse = .awaitingPayload ∧
        s.label = .storeWidgetParameters ∧ s.length.toNat < 5 ∧ s.received.toNat < s.length.toNat ∧
        s.rx = b :: rest) ∧
      ∃ (s : State) (b : Byte) (rest : List Byte), s.parse = .awaitingPayload ∧
        s.label = .storeWidgetParameters ∧ s.received ≠ 0 ∧ s.received.toNat < s.length.toNat ∧
        s.rx = b :: rest :=
  ⟨⟨inside .awaitingPayload .storeWidgetParameters 5 0 [0, 0, 5, 2, 60], _, _, _, _, _, _,
      rfl, rfl, rfl, rfl, rfl⟩,
    ⟨inside .awaitingPayload .storeWidgetParameters 5 0 [0, 0, 5, 2], rfl, rfl, by decide, rfl, rfl⟩,
    ⟨inside .awaitingPayload .storeWidgetParameters 4 0 [0xAA], _, _, rfl, rfl, by decide, by decide, rfl⟩,
    ⟨inside .awaitingPayload .storeWidgetParameters 7 5 [0x99], _, _, rfl, rfl, by decide, by decide, rfl⟩⟩

/-- The start code's place, and the last data byte of the longest frame. -/
theorem witness_DmxHandlerWritesChannels :
    (∃ s : State, s.parse = .awaitingPayload ∧ s.label = .sendDmxData ∧ s.rx ≠ [] ∧ s.received.toNat = 0 ∧
      s.received.toNat < s.length.toNat ∧ s.chan.wf = true) ∧
      ∃ s : State, s.parse = .awaitingPayload ∧ s.label = .sendDmxData ∧ s.rx ≠ [] ∧ s.received.toNat = 599 ∧
        s.received.toNat < s.length.toNat ∧ s.chan.wf = true :=
  ⟨⟨inside .awaitingPayload .sendDmxData 3 0 [0x00, 0xFF, 0x80], by decide⟩,
    ⟨{ inside .awaitingPayload .sendDmxData 600 599 [0x42] with chan := [(0, 0x11), (7, 0x22)] }, by decide⟩⟩

theorem witness_EndStepDispatchesOrDrops :
    (∃ (s : State) (rest : List Byte), s.parse = .awaitingEnd ∧ s.rx = 0xE7 :: rest) ∧
      ∃ (s : State) (rest : List Byte), s.parse = .awaitingEnd ∧ s.rx = 0x7E :: rest :=
  ⟨⟨inside .awaitingEnd .sendDmxData 0 0 [0xE7], _, rfl, rfl⟩,
    ⟨inside .awaitingEnd .sendDmxData 0 0 [0x7E], _, rfl, rfl⟩⟩

theorem witness_HandlersKeepTheirContract :
    ∃ s : State, s.Inv ∧ s.parse = .awaitingPayload ∧ s.rx ≠ [] ∧ s.received ≠ s.length :=
  ⟨inside .awaitingPayload .getWidgetParameters 600 0 [0x04], by decide⟩

/-- A waiting state and one that goes on. -/
theorem witness_ProcessProgressesUnlessWaiting :
    (∃ s : State, s.rx ≠ [] ∧ s.waiting = true) ∧ ∃ s : State, s.rx ≠ [] ∧ s.waiting = false :=
  ⟨⟨inside .awaitingPayload .storeWidgetParameters 5 0 [0, 0, 5, 2], by decide⟩,
    ⟨inside .awaitingPayload .storeWidgetParameters 4 0 [0, 0, 5, 2], by decide⟩⟩

theorem witness_PollingReachesQuiescence :
    ∃ (s : State) (ks : List Nat), s.rx ≠ [] ∧ 2 * s.rx.length ≤ ks.length :=
  ⟨fresh [0x7E, 0x06], [1, 2, 3, 4], by decide⟩

/-- V12's bytes at once with one large burst, and in two chunks a byte at a time. -/
theorem witness_ChunkingInvariance :
    ∃ (s t1 t2 : State) (d1 d2 : List Delivery), delivered d1 = delivered d2 ∧ d1 ≠ d2 ∧
      deliver d1 s = .next t1 ∧ deliver d2 s = .next t2 ∧ t1.quiescent = true ∧ t2.quiescent = true :=
  let d1 : List Delivery :=
    .chunk [0x7E, 0x06, 0x03, 0x00, 0x00, 0xFF, 0x80, 0xE7] :: List.replicate 6 (.poll 9)
  let d2 : List Delivery :=
    .chunk [0x7E, 0x06, 0x03] :: .poll 1 :: .poll 1 :: .poll 1 ::
      .chunk [0x00, 0x00, 0xFF, 0x80, 0xE7] :: List.replicate 6 (.poll 1)
  ⟨fresh [], after (deliver d1 (fresh [])), after (deliver d2 (fresh [])), d1, d2, by decide, by decide, rfl, rfl,
    by decide +kernel, by decide +kernel⟩

theorem witness_FrameMeaningIsItsInvocations :
    (∃ i s rest, i.isFrame = true ∧ wellFormed i = true ∧ State.meets s i rest ∧ rest ≠ []) ∧
      ∃ i s rest, i.isFrame = true ∧ wellFormed i = true ∧ State.meets s i rest ∧
        i.body? = some (.oversized 601) :=
  ⟨⟨.sendDmxData (.framed 2 [0x00, 0x42] 0xE7), fresh [0x7E, 0x06, 0x02, 0x00, 0x00, 0x42, 0xE7, 0x55], [0x55],
      rfl, by decide, ⟨rfl, by decide⟩, by decide⟩,
    ⟨.getWidgetSerial (.oversized 601), fresh [0x7E, 0x0A, 0x59, 0x02, 0x00], [0x00],
      rfl, by decide, ⟨rfl, by decide⟩, rfl⟩⟩

/-- V55, from a header that announces 600 bytes. -/
theorem witness_ZeroBytesResynchronise :
    ∃ (s t : State) (ks : List Nat), s.Inv ∧ polls ks (hostSends (List.replicate 601 0) s) = .next t ∧
      t.quiescent = true :=
  let s := inside .awaitingPayload .sendDmxData 600 0 []
  ⟨s, after (polls [600, 1, 1] (hostSends (List.replicate 601 0) s)), [600, 1, 1], by decide,
    eq_next_after (by decide +kernel), by decide +kernel⟩

theorem witness_DiscardedMessagesChangeNothing :
    (∃ s body rest, wellFormed (.invalid body) = true ∧ State.meets s (.invalid body) rest) ∧
      (∃ s body rest,
        wellFormed (.reprogramFirmware body) = true ∧ State.meets s (.reprogramFirmware body) rest) ∧
      ∃ s body rest, wellFormed (.programFlashPage body) = true ∧ State.meets s (.programFlashPage body) rest :=
  ⟨⟨fresh [0x7E, 0x00, 0x01, 0x00, 0xAA, 0xE7], .framed 1 [0xAA] 0xE7, [], by decide, rfl, by decide⟩,
    ⟨fresh [0x7E, 0x01, 0x00, 0x00, 0x00], .framed 0 [] 0x00, [], by decide, rfl, by decide⟩,
    ⟨fresh [0x7E, 0x02, 0xFF, 0xFF], .oversized 0xFFFF, [], by decide, rfl, by decide⟩⟩

theorem witness_InboundReceiveDmxDataIsDiscarded :
    ∃ s body rest, wellFormed (.receiveDmxData body) = true ∧ State.meets s (.receiveDmxData body) rest :=
  ⟨fresh [0x7E, 0x05, 0x02, 0x00, 0x00, 0x42, 0xE7], .framed 2 [0x00, 0x42] 0xE7, [], by decide, rfl, by decide⟩

/-- One witness for each of the eight rows of coerced labels. -/
theorem witness_UnsupportedMessagesActAsInvalid :
    ∀ i ∈ [Instr.unsupported07 (.framed 0 [] 0xE7), .unsupported08To09 1 (.framed 0 [] 0xE7),
        .unsupported0B (.framed 0 [] 0xE7), .unsupported0CTo0F 3 (.framed 0 [] 0xE7),
        .unsupported10To1F 15 (.framed 0 [] 0xE7), .unsupported20To3F 31 (.framed 0 [] 0xE7),
        .unsupported40To7F 63 (.framed 0 [] 0xE7), .unsupported80ToFF 127 (.framed 0 [] 0xE7)],
      i.isUnsupported = true ∧ i.body? = some (.framed 0 [] 0xE7) ∧ wellFormed i = true ∧
        State.meets (fresh (encode i)) i [] := by
  intro i hi
  refine ⟨?_, ?_, ?_, rfl, (List.append_nil _).symm⟩ <;> (revert i; decide)

theorem witness_GetWidgetParametersReplies :
    (∃ s rest, State.meets s (.getWidgetParameters (.framed 2 [loByte 260, hiByte 260] 0xE7)) rest) ∧
      ∃ s rest, State.meets s (.getWidgetParameters (.framed 2 [loByte 260, hiByte 260] 0x00)) rest :=
  ⟨⟨fresh [0x7E, 0x03, 0x02, 0x00, 0x04, 0x01, 0xE7], [], rfl, by decide⟩,
    ⟨fresh [0x7E, 0x03, 0x02, 0x00, 0x04, 0x01, 0x00], [], rfl, by decide⟩⟩

/-- LENGTH 0, 1, 3 and 601. -/
theorem witness_GetWidgetParametersOtherLengths :
    ∀ body ∈ [Body.framed 0 [] 0xE7, .framed 1 [0x09] 0xE7, .framed 3 [0x02, 0x00] 0xE7, .oversized 601],
      wellFormed (.getWidgetParameters body) = true ∧
        State.meets (fresh (encode (.getWidgetParameters body))) (.getWidgetParameters body) [] := by
  intro body hb
  refine ⟨?_, rfl, (List.append_nil _).symm⟩
  revert body
  decide

/-- LENGTH 4, 5 and 601. -/
theorem witness_StoreWidgetParametersStores :
    ∀ body ∈ [Body.framed 4 [0, 0, 5, 2] 0xE7, .framed 5 [0, 0, 5, 2, 60] 0xE7, .oversized 601],
      wellFormed (.storeWidgetParameters body) = true ∧
        State.meets (fresh (encode (.storeWidgetParameters body))) (.storeWidgetParameters body) [] := by
  intro body hb
  refine ⟨?_, rfl, (List.append_nil _).symm⟩
  revert body
  decide

/-- LENGTH 0, 1, 3 and 601, over channels that already hold something. -/
theorem witness_SendDmxDataSetsChannels :
    ∀ body ∈ [Body.framed 0 [] 0xE7, .framed 1 [0x55] 0xE7, .framed 3 [0x00, 0xFF, 0x80] 0x00, .oversized 601],
      ∃ s : State, s.chan = [(1, 0x80)] ∧ s.chan.wf = true ∧ wellFormed (.sendDmxData body) = true ∧
        State.meets s (.sendDmxData body) [] := by
  intro body hb
  refine ⟨{ fresh (encode (.sendDmxData body)) with chan := [(1, 0x80)] }, rfl, rfl, ?_, rfl,
    (List.append_nil _).symm⟩
  revert body
  decide

/-- With and without a payload, with a wrong END, and LENGTH 601. -/
theorem witness_GetWidgetSerialReplies :
    ∀ body ∈ [Body.framed 0 [] 0xE7, .framed 2 [0x01, 0x02] 0xE7, .framed 0 [] 0x00, .oversized 601],
      wellFormed (.getWidgetSerial body) = true ∧
        State.meets (fresh (encode (.getWidgetSerial body))) (.getWidgetSerial body) [] := by
  intro body hb
  refine ⟨?_, rfl, (List.append_nil _).symm⟩
  revert body
  decide

/-- A wrong END after a stored parameter block, and an oversized LENGTH. -/
theorem witness_IncompleteFramesAreSilent :
    ∀ body ∈ [Body.framed 5 [0, 0, 5, 2, 60] 0x00, .oversized 601],
      (Instr.storeWidgetParameters body).body? = some body ∧
        wellFormed (.storeWidgetParameters body) = true ∧ body.completes = false ∧
        State.meets (fresh (encode (.storeWidgetParameters body))) (.storeWidgetParameters body) [] := by
  intro body hb
  refine ⟨rfl, ?_, ?_, rfl, (List.append_nil _).symm⟩ <;> (revert body; decide)

theorem witness_FrameOutsideIdleIsOneInvocation :
    ∃ (i : Instr) (s : State), i.isFrame = true ∧ s.parse ≠ .idle :=
  ⟨.getWidgetSerial (.framed 0 [] 0xE7), inside .awaitingPayload .sendDmxData 3 0 [0x7E], rfl, by decide⟩

theorem witness_DelimitersAreTheirInvocations :
    (∃ (s : State) (rest : List Byte), s.parse = .idle ∧ s.rx = 0x7E :: rest) ∧
      (∃ (s : State) (rest : List Byte), s.parse = .awaitingEnd ∧ s.rx = 0xE7 :: rest) ∧
      (∃ s : State, s.parse ≠ .idle) ∧ ∃ s : State, s.parse ≠ .awaitingEnd :=
  ⟨⟨fresh [0x7E], _, rfl, rfl⟩, ⟨inside .awaitingEnd .getWidgetSerial 0 0 [0xE7], _, rfl, rfl⟩,
    ⟨inside .awaitingEnd .invalid 0 0 [], by decide⟩, ⟨fresh [], by decide⟩⟩

/-- The last index below `N`, and `N` itself. -/
theorem witness_ChannelWriteIsBoundedAndLocal :
    (∃ s : State, s.chan.wf = true ∧ 7 < s.capacity ∧ s.chan ≠ []) ∧
      ∃ s : State, s.chan.wf = true ∧ s.capacity ≤ 8 :=
  ⟨⟨{ fresh [] with chan := [(7, 0x22)] }, by decide⟩, ⟨fresh [], by decide⟩⟩

theorem witness_StepKeepsInvariant : ∃ s t : State, s.Inv ∧ step s = .next t ∧ t.chan ≠ s.chan :=
  let s := asked [.runInstr] [0x7E, 0x06, 0x03, 0x00, 0x00, 0xFF, 0x80, 0xE7]
  ⟨s, after (step s), by decide, rfl, by decide +kernel⟩

theorem witness_ChannelsBeyondWireStayZero :
    ∃ s t : State, s.Inv ∧ (∀ i, 599 ≤ i → s.chan.read i = 0) ∧ step s = .next t ∧ t.chan.read 598 = 0x42 :=
  let s : State :=
    { asked [.runInstr] ([0x7E, 0x06, 0x58, 0x02] ++ List.replicate 599 0 ++ [0x42, 0xE7]) with
      capacity := 1024 }
  ⟨s, after (step s), by decide, fun _ _ => rfl, eq_next_after (by decide +kernel), by decide +kernel⟩

theorem witness_MovesKeepTheirPlaces : ∃ s t : State, step s = .next t ∧ t.tx ≠ s.tx :=
  let s := asked [.runInstr] [0x7E, 0x0A, 0x00, 0x00, 0xE7]
  ⟨s, after (step s), rfl, by decide +kernel⟩

theorem witness_DecodingIgnoresStoredValues : ∃ s u : State, s.sameDecoding u ∧ s ≠ u :=
  ⟨fresh [0x7E], { fresh [0x7E] with rate := 7, cfgSize := 3, chan := [(0, 1)] }, by decide, by decide⟩

/-- The invocation that completes a serial request. -/
theorem witness_UploadDoesNotDisturbDecoding :
    ∃ (k : Nat) (s t : State) (e : Event), process k s = .next (t, e) ∧ e = .serialRequested :=
  ⟨1, inside .awaitingEnd .getWidgetSerial 0 0 [0xE7], _, _, rfl, rfl⟩

/-- Bytes that join, bytes that are taken, and a move that takes none. -/
theorem witness_UnreadBytesLeaveFromTheHead :
    (∃ s t : State, step s = .next t ∧ s.inputs = [.hostSends [0x06]] ∧ t.rx = s.rx ++ [0x06]) ∧
      (∃ s t : State, step s = .next t ∧ s.inputs = [.runInstr] ∧ s.rx ≠ t.rx) ∧
      ∃ s t : State, step s = .next t ∧ s.inputs = [.getParameters] ∧ s.rx = t.rx :=
  let s1 := asked [.hostSends [0x06]] [0x7E]
  let s2 := asked [.runInstr] [0x7E, 0x0A, 0x00, 0x00, 0xE7, 0x55]
  let s3 := asked [.getParameters] [0x7E]
  ⟨⟨s1, after (step s1), rfl, rfl, rfl⟩, ⟨s2, after (step s2), rfl, rfl, by decide +kernel⟩,
    ⟨s3, after (step s3), rfl, rfl, rfl⟩⟩

end Sys2Proof.Tests
end

section
/-! PROOFS. The three parse states that read exactly one byte (40_framing_fsm.md R71, R72, R75): what the step
function of each answers when a byte waits, and that an invocation in that state is that step. -/

namespace Sys2Proof.Machine

/-! What each one-byte step answers -/

theorem stepIdle_cons {s : State} {b : Byte} {rest : List Byte} (hp : s.parse = .idle) (hrx : s.rx = b :: rest) :
    stepIdle s =
      .next ({ s with rx := rest, parse := if b = Config.startByte then .awaitingLabel else .idle }, .none) := by
  rw [stepIdle, rxRead1_cons hrx, andThen_next]
  by_cases hb : b = Config.startByte
  · simp only [if_pos hb]
  · simp only [if_neg hb, hp]

theorem stepLabel_cons {s : State} {b : Byte} {rest : List Byte} (hrx : s.rx = b :: rest) :
    stepLabel s = .next ({ s with rx := rest, label := coerce b, parse := .awaitingLength }, .none) := by
  rw [stepLabel, rxRead1_cons hrx, andThen_next]

theorem stepEnd_cons {s : State} {b : Byte} {rest : List Byte} (hrx : s.rx = b :: rest) :
    stepEnd s =
      if b = Config.endByte then .next (dispatchMessage s.label { s with rx := rest, parse := .idle })
      else .next ({ s with rx := rest, parse := .idle }, .none) := by
  simp only [stepEnd, rxRead1_cons hrx, andThen_next, abandonFrame]

/-! Which step an invocation is, once a byte waits -/

theorem process_idle (k : Nat) {s : State} (hp : s.parse = .idle) (hr : s.rx ≠ []) :
    process k s = stepIdle s := by
  simp [process, hr, hp]

theorem process_awaitingLabel (k : Nat) {s : State} (hp : s.parse = .awaitingLabel) (hr : s.rx ≠ []) :
    process k s = stepLabel s := by
  simp [process, hr, hp]

theorem process_awaitingEnd (k : Nat) {s : State} (hp : s.parse = .awaitingEnd) (hr : s.rx ≠ []) :
    process k s = stepEnd s := by
  simp [process, hr, hp]

/-- Settles O17: the invocation is `stepIdle`, which leaves `Idle` on START alone (R71, R161). -/
theorem idleStepScansForStart : Obligations.IdleStepScansForStart := by
  intro k s b rest hp hrx
  rw [process_idle k hp (by simp [hrx])]
  exact stepIdle_cons hp hrx

/-- Settles O18: the invocation is `stepLabel`, which asks nothing of the byte but its coercion (R72). -/
theorem labelStepCoerces : Obligations.LabelStepCoerces := by
  intro k s b rest hp hrx
  rw [process_awaitingLabel k hp (by simp [hrx])]
  exact stepLabel_cons hrx

/-- Settles O26: the invocation is `stepEnd`; both branches start from the state the payload left, so the handlers'
effects stay (R75, R163). -/
theorem endStepDispatchesOrDrops : Obligations.EndStepDispatchesOrDrops := by
  intro k s b rest hp hrx
  rw [process_awaitingEnd k hp (by simp [hrx])]
  exact stepEnd_cons hrx

end Sys2Proof.Machine
end

section
/-! PROOFS. When the byte that comes next in a payload is discarded, and the counter of payload bytes
(41_payload_handlers.md R91 to R95). -/

namespace Sys2Proof.Machine

/-- The payload byte that comes next is counted and discarded: the label has no other handler, or its handler has no
use for the byte (R91, R92, R93). -/
structure State.Discards (s : State) : Prop where
  not_channels : s.label ≠ .sendDmxData
  not_size : s.label = .getWidgetParameters → s.length.toNat < 2
  not_block : s.label = .storeWidgetParameters → 5 ≤ s.length.toNat → s.received ≠ 0

/-- The four ways a payload is taken. -/
theorem payload_cases (s : State) :
    s.Discards ∨ s.label = .sendDmxData ∨ (s.label = .getWidgetParameters ∧ 2 ≤ s.length.toNat) ∨
      (s.label = .storeWidgetParameters ∧ 5 ≤ s.length.toNat) := by
  by_cases hd : s.Discards
  · exact .inl hd
  · refine .inr (by_contra fun h => hd ?_)
    simp only [not_or, not_and] at h
    obtain ⟨hch, hsize, hblock⟩ := h
    exact ⟨hch, fun hl => Nat.not_le.1 (hsize hl), fun hl h5 => absurd h5 (hblock hl)⟩

theorem handler_of_discards (k : Nat) {s : State} (h : s.Discards) : handler k s = hDiscard s := by
  obtain ⟨hch, hsize, hblock⟩ := h
  unfold handler
  cases hl : s.label with
  | getWidgetParameters => simp only [hGetParams_eq, Nat.not_le.2 (hsize hl), if_false]
  | storeWidgetParameters => simp only [hStoreParams_eq, if_neg fun h : _ ∧ _ => hblock hl h.1 h.2]
  | sendDmxData => exact absurd hl hch
  | _ => rfl

/-! The counter stays below `length`, so it does not wrap. -/

theorem received_ne {s : State} (h : s.received.toNat < s.length.toNat) : s.received ≠ s.length :=
  fun he => Nat.ne_of_lt h (congrArg BitVec.toNat he)

theorem received_lt {s : State} (hr : s.received = 0) (h : 0 < s.length.toNat) :
    s.received.toNat < s.length.toNat := by
  rw [hr]
  exact h

theorem received_add {s : State} {n : Nat} (h : s.received.toNat + n ≤ s.length.toNat) :
    (s.received + BitVec.ofNat 16 n).toNat = s.received.toNat + n := by
  have hl := s.length.isLt
  rw [BitVec.toNat_add, BitVec.toNat_ofNat]
  omega

theorem received_succ {s : State} (h : s.received.toNat < s.length.toNat) :
    (s.received + 1).toNat = s.received.toNat + 1 := received_add h

/-- Discarding one byte more does not make a handler want the next. -/
theorem State.Discards.count {s : State} (h : s.Discards) (hlt : s.received.toNat < s.length.toNat) (r : List Byte) :
    ({ s with rx := r, received := s.received + 1 } : State).Discards where
  not_channels := h.not_channels
  not_size := h.not_size
  not_block _ _ h0 := by
    have h1 := received_succ hlt
    rw [show s.received + 1 = 0 from h0] at h1
    exact absurd h1 (Nat.succ_ne_zero _).symm

end Sys2Proof.Machine
end

section
/-! PROOFS. The sixteen inbound rows as one meaning: which label a row's frame is taken under (30_encoding.md R55),
how much of its payload is taken and what the payload does (41_payload_handlers.md R90, R96). A statement about every
inbound frame is then one about `runFrame`. -/

namespace Sys2Proof

/-- The label an inbound frame is taken under: its LABEL byte coerced (`coerce_labelByte`). -/
def Instr.label : Instr → Label
  | .reprogramFirmware _ => .reprogramFirmware
  | .programFlashPage _ => .programFlashPage
  | .getWidgetParameters _ => .getWidgetParameters
  | .storeWidgetParameters _ => .storeWidgetParameters
  | .receiveDmxData _ => .receiveDmxData
  | .sendDmxData _ => .sendDmxData
  | .getWidgetSerial _ => .getWidgetSerial
  | _ => .invalid

/-- How many bytes of a declared payload are taken under a label (`wellFormed_eq_takenOf`). -/
def takenOf : Label → Nat → Nat
  | .getWidgetParameters => sizeField
  | _ => wholePayload

/-- Every byte above the highest code is coerced. -/
theorem coerce_of_gt {b : Byte} (h : 10 < b.toNat) : coerce b = .invalid := by
  have ne (c : Byte) (hc : c.toNat ≤ 10) : b ≠ c := fun hb => by
    rw [hb] at h
    omega
  simp [coerce_eq, ne]

/-- A LABEL byte made of a row's fixed bits and free ones is at least the fixed bits' value. -/
theorem toNat_append_ge {m n : Nat} (high : BitVec m) (low : BitVec n) :
    high.toNat * 2 ^ n ≤ (high ++ low).toNat := by
  rw [BitVec.toNat_append, ← Nat.shiftLeft_eq]
  exact Nat.left_le_or

theorem coerce_labelByte {i : Instr} {body : Body} (h : i.body? = some body) : coerce i.labelByte = i.label := by
  cases i with
  | unsupported08To09 low => exact (by decide : ∀ low : BitVec 1, coerce (0b0000100#7 ++ low) = .invalid) low
  | unsupported0CTo0F low => exact coerce_of_gt (Nat.lt_of_lt_of_le (by decide) (toNat_append_ge _ low))
  | unsupported10To1F low => exact coerce_of_gt (Nat.lt_of_lt_of_le (by decide) (toNat_append_ge _ low))
  | unsupported20To3F low => exact coerce_of_gt (Nat.lt_of_lt_of_le (by decide) (toNat_append_ge _ low))
  | unsupported40To7F low => exact coerce_of_gt (Nat.lt_of_lt_of_le (by decide) (toNat_append_ge _ low))
  | unsupported80ToFF low => exact coerce_of_gt (Nat.lt_of_lt_of_le (by decide) (toNat_append_ge _ low))
  | _ => rfl

theorem wellFormed_eq_takenOf {i : Instr} {body : Body} (h : i.body? = some body) :
    wellFormed i = body.wellFormed (takenOf i.label) := by
  cases i <;> cases h <;> rfl

theorem label_of_isUnsupported {i : Instr} (h : i.isUnsupported = true) : i.label = .invalid := by
  match i, h with
  | .unsupported07 _, _ | .unsupported08To09 _ _, _ | .unsupported0B _, _ | .unsupported0CTo0F _ _, _
  | .unsupported10To1F _ _, _ | .unsupported20To3F _ _, _ | .unsupported40To7F _ _, _
  | .unsupported80ToFF _ _, _ => rfl

@[simp] theorem Instr.label_mapBody (g : Body → Body) (i : Instr) : (i.mapBody g).label = i.label := by
  cases i <;> rfl

theorem Instr.body_mapBody (g : Body → Body) {i : Instr} {body : Body} (h : i.body? = some body) :
    (i.mapBody g).body? = some (g body) := by
  cases i <;> cases h <;> rfl

end Sys2Proof

namespace Sys2Proof.Machine

/-- The effect of a whole payload taken under a label (`exec_eq_runFrame`). -/
def effectOf : Label → List Byte → State → State
  | .getWidgetParameters => configPayload
  | .storeWidgetParameters => parameterPayload
  | .sendDmxData => channelPayload
  | _ => discardPayload

/-- Every inbound row is `runFrame` under its label. -/
theorem exec_eq_runFrame {i : Instr} {body : Body} (h : i.body? = some body) (s : State) :
    exec i s = runFrame i.label (effectOf i.label) body s := by
  cases i <;> cases h <;> rfl

/-! What a payload effect neither reads nor writes -/

/-- `s` with everything of `t` that belongs to framing a message and not to its payload: the parse registers, the
streams and what has been reported. -/
def State.withFraming (s t : State) : State :=
  { s with
    parse := t.parse
    label := t.label
    length := t.length
    received := t.received
    rx := t.rx
    tx := t.tx
    observed := t.observed }

theorem chanWrite_withFraming (i : Nat) (b : Byte) (s t : State) :
    chanWrite i b (s.withFraming t) = (chanWrite i b s).withFraming t := by
  simp only [chanWrite_eq, State.withFraming]

theorem writeChannels_withFraming (i : Nat) (p : List Byte) (s t : State) :
    writeChannels i p (s.withFraming t) = (writeChannels i p s).withFraming t := by
  induction p generalizing i s with
  | nil => rfl
  | cons b p ih => rw [writeChannels, chanWrite_withFraming, ih, writeChannels]

theorem configPayload_eq (p : List Byte) (s : State) :
    configPayload p s =
      { s with cfgSize := if p.length = 2 then le16 (p.getD 0 0) (p.getD 1 0) else s.cfgSize } := by
  by_cases h : p.length = 2
  · obtain ⟨b0, b1, rfl⟩ := List.length_eq_two.1 h
    exact configPayload_two b0 b1 s
  · rw [configPayload_of_ne_two h, if_neg h]

theorem parameterPayload_withFraming (p : List Byte) (s t : State) :
    parameterPayload p (s.withFraming t) = (parameterPayload p s).withFraming t := by
  by_cases h : 5 ≤ p.length
  · rw [parameterPayload_long h, parameterPayload_long h]
    rfl
  · rw [parameterPayload_short (by omega), parameterPayload_short (by omega)]

theorem effectOf_withFraming (l : Label) (p : List Byte) (s t : State) :
    effectOf l p (s.withFraming t) = (effectOf l p s).withFraming t := by
  cases l with
  | getWidgetParameters => simp only [effectOf, configPayload_eq, State.withFraming]
  | storeWidgetParameters => exact parameterPayload_withFraming p s t
  | sendDmxData => exact writeChannels_withFraming 0 p.tail s t
  | _ => rfl

/-- A payload effect leaves the parse registers, the streams and the caller's record alone. -/
theorem effectOf_keeps_framing (l : Label) (p : List Byte) (s : State) :
    effectOf l p s = (effectOf l p s).withFraming s :=
  effectOf_withFraming l p s s

/-- Where the block stands and what waits in `rx` may be set before or after a payload's effect. -/
theorem effectOf_move (l : Label) (p : List Byte) (s : State) (q : ParseState) (r : List Byte) :
    { effectOf l p s with parse := q, rx := r } = effectOf l p { s with parse := q, rx := r } := by
  rw [show ({ s with parse := q, rx := r } : State) = s.withFraming { s with parse := q, rx := r } from rfl,
    effectOf_withFraming, effectOf_keeps_framing]
  rfl

/-- `runFrame_framed` for the effect of any label. -/
theorem runFrame_effectOf_framed (l : Label) {len : Half} {p : List Byte} {label e : Byte} {s : State}
    {rest : List Byte} (hi : s.parse = .idle) (hr : s.rx = encodeBody label (.framed len p e) ++ rest) :
    runFrame l (effectOf l) (.framed len p e) s =
      .next
        (let t := effectOf l p (s.afterFrame l (.framed len p e) rest)
        if e = Config.endByte then reportEvent (eventOf l) { t with tx := t.tx ++ replyBytes l t } else t) := by
  refine runFrame_framed l (effectOf l) hi hr ?_
  rw [effectOf_keeps_framing]
  exact hi

end Sys2Proof.Machine
end

section
/-! PROOFS. Polling through a whole frame (40_framing_fsm.md R82): the invocations of a frame, one phase after another,
whatever DMX_BURST asks for in each. -/

namespace Sys2Proof.Machine

/-! ## Invocations one after another -/

theorem polls_append (ks js : List Nat) (s : State) : polls (ks ++ js) s = andThen (polls ks s) (polls js) := by
  induction ks generalizing s with
  | nil => rfl
  | cons k ks ih =>
    simp only [List.cons_append, polls]
    cases poll k s with
    | next u => exact ih u
    | fault _ => rfl
    | refused _ => rfl

/-- Whatever DMX_BURST asks for, some number of invocations up to `n` ends in `t`. -/
def PollsWithin (n : Nat) (s t : State) : Prop :=
  ∀ ks : Nat → Nat, ∃ m, m ≤ n ∧ polls ((List.range m).map ks) s = .next t

theorem PollsWithin.refl (s : State) : PollsWithin 0 s s := fun _ => ⟨0, Nat.le_refl 0, rfl⟩

theorem PollsWithin.mono {n m : Nat} {s t : State} (h : PollsWithin n s t) (hnm : n ≤ m) : PollsWithin m s t :=
  fun ks =>
    have ⟨j, hj, hp⟩ := h ks
    ⟨j, Nat.le_trans hj hnm, hp⟩

theorem PollsWithin.trans {n m : Nat} {s t u : State} (h1 : PollsWithin n s t) (h2 : PollsWithin m t u) :
    PollsWithin (n + m) s u := by
  intro ks
  obtain ⟨a, ha, hpa⟩ := h1 ks
  obtain ⟨b, hb, hpb⟩ := h2 fun j => ks (a + j)
  refine ⟨a + b, by omega, ?_⟩
  rw [List.range_add, List.map_append, List.map_map, polls_append, hpa]
  exact hpb

/-- One invocation, whose result may depend on DMX_BURST, and then at most `n` more. -/
theorem PollsWithin.of_poll {n : Nat} {s t : State}
    (h : ∀ k, ∃ u, poll k s = .next u ∧ PollsWithin n u t) : PollsWithin (n + 1) s t := by
  intro ks
  obtain ⟨u, hpoll, hu⟩ := h (ks 0)
  obtain ⟨m, hm, hp⟩ := hu (ks ∘ Nat.succ)
  refine ⟨m + 1, by omega, ?_⟩
  rw [List.range_succ_eq_map, List.map_cons, List.map_map, polls, hpoll]
  exact hp

theorem poll_of_process {k : Nat} {s t : State} (h : process k s = .next (t, .none)) : poll k s = .next t := by
  rw [poll, h]
  rfl

/-- One invocation that returns no event. -/
theorem PollsWithin.of_process {s t : State} (h : ∀ k, process k s = .next (t, .none)) : PollsWithin 1 s t :=
  .of_poll fun k => ⟨t, poll_of_process (h k), .refl t⟩

/-! ## The header -/

/-- START and LABEL (R71, R72). -/
theorem pollsWithin_start_label {s : State} {b : Byte} {rest : List Byte} (hp : s.parse = .idle)
    (hrx : s.rx = Config.startByte :: b :: rest) :
    PollsWithin 2 s { s with rx := rest, label := coerce b, parse := .awaitingLength } :=
  PollsWithin.trans (n := 1) (t := { s with rx := b :: rest, parse := .awaitingLabel })
    (.of_process fun k => (process_idle k hp (by simp [hrx])).trans (stepIdle_cons hp hrx))
    (.of_process fun k => (process_awaitingLabel k rfl (by simp)).trans (stepLabel_cons rfl))

/-- What `StepLength` answers with two bytes waiting (R73, R162). -/
theorem process_awaitingLength (k : Nat) {s : State} {b0 b1 : Byte} {rest : List Byte}
    (hp : s.parse = .awaitingLength) (hrx : s.rx = b0 :: b1 :: rest) :
    process k s = .next
      (if Config.maxLen < (le16 b0 b1).toNat then { s with rx := rest, parse := .idle }
        else { s with rx := rest, length := le16 b0 b1, received := 0, parse := .awaitingPayload }, .none) := by
  have h : process k s = stepLength s := by simp [process, hrx, hp]
  rw [h, stepLength, if_neg (by simp [hrx]), rxReadN_two hrx, andThen_next]
  simp only [abandonFrame]
  split <;> rfl

/-- The four header bytes, up to the decision on LENGTH. -/
theorem pollsWithin_header {s : State} {label : Byte} {len : Half} {rest : List Byte} (hp : s.parse = .idle)
    (hrx : s.rx = frameHeader label len ++ rest) :
    PollsWithin 3 s
      (if Config.maxLen < len.toNat then { s with rx := rest, label := coerce label, parse := .idle }
        else { s with
          rx := rest, label := coerce label, length := len, received := 0, parse := .awaitingPayload }) := by
  refine (pollsWithin_start_label hp hrx).trans (.of_process fun k => ?_)
  rw [process_awaitingLength k rfl rfl]
  simp only [le16_loByte_hiByte]
  rfl

/-! ## The payload -/

/-- A used-up payload: the invocation that only goes on to `AwaitingEnd` (R74). -/
theorem pollsWithin_usedUp {s : State} {e : Byte} {rest : List Byte} (hp : s.parse = .awaitingPayload)
    (hrx : s.rx = e :: rest) (hr : s.received = s.length) :
    PollsWithin 1 s { s with rx := e :: rest, received := s.length, parse := .awaitingEnd } := by
  rw [← hrx, ← hr]
  exact .of_process fun k => by simp [process, hrx, hp, stepPayload, hr]

/-- A payload whose bytes are all discarded. -/
theorem pollsWithin_discards (p : List Byte) {s : State} {e : Byte} {rest : List Byte}
    (hp : s.parse = .awaitingPayload) (hrx : s.rx = p ++ e :: rest)
    (hlen : s.received.toNat + p.length = s.length.toNat) (hd : s.Discards) :
    PollsWithin (p.length + 1) s { s with rx := e :: rest, received := s.length, parse := .awaitingEnd } := by
  induction p generalizing s with
  | nil => exact pollsWithin_usedUp hp hrx (BitVec.eq_of_toNat_eq hlen)
  | cons b p ih =>
    rw [List.length_cons] at hlen
    have hlt : s.received.toNat < s.length.toNat := by omega
    refine .of_poll fun k => ⟨{ s with rx := p ++ e :: rest, received := s.received + 1 }, poll_of_process ?_,
      ih hp rfl ?_ (hd.count hlt _)⟩
    · rw [process_handler k hp (by simp [hrx]) (received_ne hlt), handler_of_discards k hd, hDiscard_cons hrx,
        andThen_next]
      rfl
    · have h1 := received_succ hlt
      simp only
      omega

theorem dmxWrite_append (r : Nat) (p q : List Byte) (s : State) :
    dmxWrite r (p ++ q) s = dmxWrite (r + p.length) q (dmxWrite r p s) := by
  induction p generalizing r s with
  | nil => rw [dmxWrite_nil]; rfl
  | cons b p ih =>
    rw [List.cons_append, dmxWrite_cons, ih, dmxWrite_cons, List.length_cons, Nat.add_right_comm, Nat.add_assoc]

theorem process_channels (k : Nat) {s : State} (hp : s.parse = .awaitingPayload) (hl : s.label = .sendDmxData)
    (hr : s.rx ≠ []) (hlt : s.received.toNat < s.length.toNat) :
    process k s = .next
      ({ s with
        rx := s.rx.drop (burst k s)
        received := s.received + BitVec.ofNat 16 (burst k s)
        chan := (dmxWrite s.received.toNat (s.rx.take (burst k s)) s).chan }, .none) := by
  have hb := burst_le_remaining k s hlt
  have hlen := s.length.isLt
  rw [process_handler k hp hr fun h => by rw [h] at hlt; omega]
  simp only [handler, hl, hDmx, hDmxLoop_eq _ s (burst_le_avail k s hr) (by omega), andThen_next]

/-- What a burst of bytes has done to the channels, the rest of the payload goes on from. -/
theorem chan_dmxWrite_take_drop (r n : Nat) (p : List Byte) (hn : n ≤ p.length) {s u : State}
    (hc : u.capacity = s.capacity) (hm : u.chan = (dmxWrite r (p.take n) s).chan) :
    (dmxWrite (r + n) (p.drop n) u).chan = (dmxWrite r p s).chan := by
  conv_rhs => rw [← List.take_append_drop n p, dmxWrite_append, List.length_take_of_le hn]
  exact chan_dmxWrite_congr _ _ (by rw [hc, dmxWrite_eq]) hm

/-- A send_dmx_data payload, however it is cut into bursts. -/
theorem pollsWithin_channels (p : List Byte) {s : State} {e : Byte} {rest : List Byte}
    (hp : s.parse = .awaitingPayload) (hrx : s.rx = p ++ e :: rest)
    (hlen : s.received.toNat + p.length = s.length.toNat) (hl : s.label = .sendDmxData) {m : Memory}
    (hm : (dmxWrite s.received.toNat p s).chan = m) :
    PollsWithin (p.length + 1) s
      { s with rx := e :: rest, received := s.length, parse := .awaitingEnd, chan := m } := by
  induction hn : p.length using Nat.strong_induction_on generalizing p s with
  | _ n ih =>
  subst hn
  by_cases hnil : p = []
  · subst hnil
    rw [dmxWrite_nil] at hm
    subst hm
    exact pollsWithin_usedUp hp hrx (BitVec.eq_of_toNat_eq hlen)
  · have hpos := List.length_pos_of_ne_nil hnil
    have hlt : s.received.toNat < s.length.toNat := by omega
    have hr : s.rx ≠ [] := by simp [hrx]
    refine .of_poll fun k => ⟨_, poll_of_process (process_channels k hp hl hr hlt), ?_⟩
    have hb1 := burst_pos k s
    have hb := burst_le_remaining k s hlt
    generalize burst k s = b at hb1 hb
    have hbp : b ≤ p.length := by omega
    have hcount : (s.received + BitVec.ofNat 16 b).toNat = s.received.toNat + b := received_add (by omega)
    have hshort : (p.drop b).length = p.length - b := List.length_drop
    rw [hrx, List.take_append_of_le_length hbp, List.drop_append_of_le_length hbp]
    refine PollsWithin.mono (n := (p.drop b).length + 1) ?_ (by omega)
    refine ih (p.drop b).length (by omega) (p.drop b) hp rfl ?_ hl ?_ rfl
    · simp only
      omega
    · simp only [hcount]
      refine (chan_dmxWrite_take_drop (s := s) _ _ _ hbp ?_ ?_).trans hm <;> rfl

/-- The size field of a get_widget_parameters payload is taken at once and nothing more is (R92). -/
theorem pollsWithin_size {s : State} {b0 b1 e : Byte} {rest : List Byte} (hp : s.parse = .awaitingPayload)
    (hrx : s.rx = b0 :: b1 :: e :: rest) (hr : s.received = 0) (hl : s.label = .getWidgetParameters)
    (h2 : 2 ≤ s.length.toNat) :
    PollsWithin 1 s { s with rx := e :: rest, cfgSize := le16 b0 b1, received := 2, parse := .awaitingEnd } := by
  have hlt : s.received.toNat < s.length.toNat := received_lt hr (by omega)
  refine .of_process fun k => ?_
  rw [process_handler k hp (by simp [hrx]) (received_ne hlt)]
  simp only [handler, hl, hGetParams_eq, if_pos h2, if_neg (by simp [hrx] : ¬ s.rx.length < 2), rxReadN_two hrx,
    andThen_next, storeConfigSize]

/-- A store_widget_parameters payload of at least five bytes: the block at once, the bytes behind it discarded (R93). -/
theorem pollsWithin_block {s : State} {q0 q1 b m r e : Byte} {p rest : List Byte} (hp : s.parse = .awaitingPayload)
    (hrx : s.rx = q0 :: q1 :: b :: m :: r :: (p ++ e :: rest)) (hr : s.received = 0)
    (hl : s.label = .storeWidgetParameters) (hlen : 5 + p.length = s.length.toNat) :
    PollsWithin (p.length + 2) s
      { s with
        rx := e :: rest
        breakTime := b
        mabTime := m
        rate := r
        received := s.length
        parse := .awaitingEnd } := by
  have hlt : s.received.toNat < s.length.toNat := received_lt hr (by omega)
  have hstart : 5 ≤ s.length.toNat ∧ s.received = 0 := ⟨by omega, hr⟩
  refine .of_poll fun k =>
    ⟨{ s with rx := p ++ e :: rest, breakTime := b, mabTime := m, rate := r, received := 5 }, poll_of_process ?_,
      pollsWithin_discards p hp rfl hlen ?_⟩
  · rw [process_handler k hp (by simp [hrx]) (received_ne hlt)]
    simp only [handler, hl, hStoreParams_eq, if_pos hstart, if_neg (by simp [hrx] : ¬ s.rx.length < 5),
      rxReadN_five hrx, andThen_next, storeParameters]
  · exact ⟨by simp [hl], by simp [hl], fun _ _ h => nomatch h⟩

/-- Where every byte is discarded, the whole payload is taken and has no effect. -/
theorem effectOf_of_discards {s : State} {p : List Byte} (hd : s.Discards) (hr : s.received = 0)
    (hlen : p.length = takenOf s.label s.length.toNat) :
    p.length = s.length.toNat ∧ ∀ t, effectOf s.label p t = t := by
  cases hl : s.label with
  | sendDmxData => exact absurd hl hd.not_channels
  | getWidgetParameters =>
    have h2 := hd.not_size hl
    rw [hl, takenOf, sizeField_eq] at hlen
    exact ⟨by omega, configPayload_of_ne_two (by omega)⟩
  | storeWidgetParameters =>
    have h5 : ¬ 5 ≤ s.length.toNat := fun h => hd.not_block hl h hr
    rw [hl] at hlen
    replace hlen : p.length = s.length.toNat := hlen
    exact ⟨hlen, parameterPayload_short (by omega)⟩
  | _ =>
    rw [hl] at hlen
    exact ⟨hlen, fun _ => rfl⟩

/-- A whole payload, from the accepted LENGTH to `AwaitingEnd`: its effect is the label's (R96). -/
theorem pollsWithin_payload {s : State} {l : Label} {p : List Byte} {e : Byte} {rest : List Byte}
    (hp : s.parse = .awaitingPayload) (hl : s.label = l) (hrx : s.rx = p ++ e :: rest) (hr : s.received = 0)
    (hlen : p.length = takenOf l s.length.toNat) :
    PollsWithin (p.length + 1) s
      (effectOf l p { s with rx := e :: rest, received := BitVec.ofNat 16 p.length, parse := .awaitingEnd }) := by
  have counted (h : p.length = s.length.toNat) : BitVec.ofNat 16 p.length = s.length := by
    rw [h, BitVec.ofNat_toNat, BitVec.setWidth_eq]
  have fromZero (h : p.length = s.length.toNat) : s.received.toNat + p.length = s.length.toNat := by
    rw [hr, h]
    exact Nat.zero_add _
  rcases payload_cases s with hd | hl' | ⟨hl', h2⟩ | ⟨hl', h5⟩
  · subst hl
    obtain ⟨hall, heff⟩ := effectOf_of_discards hd hr hlen
    rw [counted hall, heff]
    exact pollsWithin_discards p hp hrx (fromZero hall) hd
  · obtain rfl := hl.symm.trans hl'
    rw [counted hlen, effectOf, channelPayload_eq]
    refine pollsWithin_channels p hp hrx (fromZero hlen) hl ?_
    rw [hr]
    exact chan_dmxWrite_congr 0 p rfl rfl
  · obtain rfl := hl.symm.trans hl'
    rw [takenOf, sizeField_eq, Nat.min_eq_right h2] at hlen
    obtain ⟨b0, b1, rfl⟩ := List.length_eq_two.1 hlen
    exact (pollsWithin_size hp hrx hr hl h2).mono (Nat.le_add_left 1 _)
  · obtain rfl := hl.symm.trans hl'
    replace hlen : p.length = s.length.toNat := hlen
    rw [counted hlen]
    match p, hlen with
    | q0 :: q1 :: b :: m :: r :: p, hlen =>
      simp only [List.length_cons] at hlen ⊢
      exact (pollsWithin_block hp hrx hr hl (by omega)).mono (by omega)
    | [], hlen | [_], hlen | [_, _], hlen | [_, _, _], hlen | [_, _, _, _], hlen =>
      simp only [List.length_cons, List.length_nil] at hlen
      omega

/-! ## END -/

/-- The byte where END is due decides between dispatch and nothing (R75, R110, R163). -/
theorem pollsWithin_end {s t : State} {l : Label} {e : Byte} {rest : List Byte} (hp : s.parse = .awaitingEnd)
    (hl : s.label = l) (hrx : s.rx = e :: rest) (ht : { s with parse := .idle, rx := rest } = t) :
    PollsWithin 1 s
      (if e = Config.endByte then reportEvent (eventOf l) { t with tx := t.tx ++ replyBytes l t } else t) := by
  subst ht hl
  refine .of_poll fun k => ⟨_, ?_, .refl _⟩
  rw [poll, process_awaitingEnd k hp (by simp [hrx]), stepEnd_cons hrx]
  split
  · rw [dispatchMessage_eq, andThen_next]
  · rfl

/-! ## The whole frame -/

/-- A frame with an oversized LENGTH: the header and nothing more. -/
theorem pollsWithin_oversized {s : State} {label : Byte} {len : Half} {rest : List Byte} (hp : s.parse = .idle)
    (hrx : s.rx = encodeBody label (.oversized len) ++ rest) (hlen : Config.maxLen < len.toNat) :
    PollsWithin 3 s (s.afterFrame (coerce label) (.oversized len) rest) := by
  have h := pollsWithin_header hp hrx
  rw [if_pos hlen, ← hp] at h
  exact h

/-- A frame with an accepted LENGTH: header, payload and the byte where END is due. -/
theorem pollsWithin_framed {s : State} {l : Label} {label e : Byte} {len : Half} {p rest : List Byte}
    (hp : s.parse = .idle) (hl : coerce label = l) (hrx : s.rx = encodeBody label (.framed len p e) ++ rest)
    (hlen : len.toNat ≤ Config.maxLen) (htaken : p.length = takenOf l len.toNat) :
    PollsWithin (3 + (p.length + 1) + 1) s
      (let t := effectOf l p (s.afterFrame l (.framed len p e) rest)
      if e = Config.endByte then reportEvent (eventOf l) { t with tx := t.tx ++ replyBytes l t } else t) := by
  subst hl
  have hheader := pollsWithin_header hp (rest := p ++ e :: rest) (by simpa [encodeBody] using hrx)
  rw [if_neg (Nat.not_lt.2 hlen)] at hheader
  have hpayload := hheader.trans (pollsWithin_payload (e := e) (rest := rest) rfl rfl rfl rfl htaken)
  have hkeeps := effectOf_keeps_framing (coerce label) p
    { s with
      rx := e :: rest
      label := coerce label
      length := len
      received := BitVec.ofNat 16 p.length
      parse := .awaitingEnd }
  refine hpayload.trans (pollsWithin_end (congrArg State.parse hkeeps) (congrArg State.label hkeeps)
    (congrArg State.rx hkeeps) ?_)
  rw [effectOf_move, State.afterFrame, ← hp]

/-- An inbound frame with the bytes of its body at the read position. -/
theorem pollsWithin_runFrame {s : State} {l : Label} {label : Byte} {body : Body} {rest : List Byte}
    (hp : s.parse = .idle) (hl : coerce label = l) (hrx : s.rx = encodeBody label body ++ rest)
    (hw : body.wellFormed (takenOf l) = true) :
    ∃ t, PollsWithin (encodeBody label body).length s t ∧ runFrame l (effectOf l) body s = .next t := by
  cases body with
  | oversized len =>
    have hlen := (Body.wellFormed_oversized _ len).1 hw
    refine ⟨_, (hl ▸ pollsWithin_oversized hp hrx hlen).mono ?_, runFrame_oversized l _ hp hrx⟩
    simp [encodeBody, frameHeader]
  | framed len p e =>
    obtain ⟨hlen, htaken⟩ := (Body.wellFormed_framed _ len p e).1 hw
    refine ⟨_, (pollsWithin_framed hp hl hrx hlen htaken).mono ?_, runFrame_effectOf_framed l hp hrx⟩
    simp only [encodeBody, frameHeader, List.length_append, List.length_cons, List.length_nil]
    omega

/-- Settles O34: the phases of a frame, each run to its end, meet the one meaning all sixteen rows share. -/
theorem frameMeaningIsItsInvocations : Obligations.FrameMeaningIsItsInvocations := by
  intro i s rest ks hi hw hm
  obtain ⟨body, hb⟩ := Option.isSome_iff_exists.1 hi
  obtain ⟨hp, hrx⟩ := hm.bytes hb
  rw [wellFormed_eq_takenOf hb] at hw
  obtain ⟨t, hpolls, hrun⟩ := pollsWithin_runFrame hp (coerce_labelByte hb) hrx hw
  obtain ⟨n, hn, hks⟩ := hpolls ks
  rw [encode_of_body hb, exec_eq_runFrame hb]
  exact ⟨n, t, hn, hks, hrun⟩

end Sys2Proof.Machine
end

section
/-! PROOFS. Message dispatch (42_message_dispatch.md): what each inbound row does with a whole frame, and with one that
does not complete. -/

namespace Sys2Proof.Machine

/-! ## Messages that are only consumed -/

/-- A message with no effect, no reply and no event leaves what every frame leaves, whether it completes or not. -/
theorem runFrame_consumed {l : Label} (hl : eventOf l = .none) {i : Instr} {s : State} {body : Body}
    {rest : List Byte} (hb : i.body? = some body) (hm : s.meets i rest) :
    runFrame l discardPayload body s = .next (s.afterFrame l body rest) := by
  obtain ⟨hp, hrx⟩ := hm.bytes hb
  cases body with
  | oversized len => exact runFrame_oversized l discardPayload hp hrx
  | framed len p e =>
    have silent : ∀ t, replyBytes l t = [] :=
      replyBytes_of_silent (fun h => by simp [h, eventOf] at hl) (fun h => by simp [h, eventOf] at hl)
    rw [runFrame_framed l discardPayload hp hrx hp]
    simp only [discardPayload, hl, silent, List.append_nil, reportEvent, ite_self]

/-- Settles O36: the three rows are consumed messages (R111, R112, R113). -/
theorem discardedMessagesChangeNothing : Obligations.DiscardedMessagesChangeNothing :=
  fun _ _ _ => ⟨fun _ hm => runFrame_consumed rfl rfl hm, fun _ hm => runFrame_consumed rfl rfl hm,
    fun _ hm => runFrame_consumed rfl rfl hm⟩

/-- Settles O37: inbound receive_dmx_data is a consumed message (R116). -/
theorem inboundReceiveDmxDataIsDiscarded : Obligations.InboundReceiveDmxDataIsDiscarded :=
  fun _ _ _ _ hm => runFrame_consumed rfl rfl hm

/-- Settles O38: a coerced row runs under the label `invalid`, a consumed message (R119). -/
theorem unsupportedMessagesActAsInvalid : Obligations.UnsupportedMessagesActAsInvalid := by
  intro i body s rest hu hb _ hm
  rw [exec_eq_runFrame hb, label_of_isUnsupported hu]
  exact runFrame_consumed rfl hb hm

/-! ## Messages with an effect or a reply -/

/-- The reply of a completed get_widget_parameters, as the frame that is sent (R132). -/
theorem append_replyBytes_getWidgetParameters (t : State) :
    { t with tx := t.tx ++ replyBytes .getWidgetParameters t } = sendFrame 0x03 (serialize t) t.cfgSize.toNat t :=
  congrArg Prod.fst (dispatchMessage_eq .getWidgetParameters t).symm

/-- A message that has an event and no reply: END brings the event (R110). -/
theorem runFrame_unanswered {l : Label} {ev : Event} (hget : l ≠ .getWidgetParameters) (hser : l ≠ .getWidgetSerial)
    (hev : eventOf l = ev) (hne : ev ≠ .none) {s : State} {label e : Byte} {len : Half} {p rest : List Byte}
    (hp : s.parse = .idle) (hrx : s.rx = encodeBody label (.framed len p e) ++ rest) :
    runFrame l (effectOf l) (.framed len p e) s =
      .next
        (let t := effectOf l p (s.afterFrame l (.framed len p e) rest)
        if e = Config.endByte then { t with observed := s.observed ++ [.event ev] } else t) := by
  have hobs : (effectOf l p (s.afterFrame l (.framed len p e) rest)).observed = s.observed := by
    rw [effectOf_keeps_framing]
    rfl
  rw [runFrame_effectOf_framed l hp hrx]
  simp only [replyBytes_of_silent hget hser, List.append_nil, reportEvent_eq, hev, if_neg hne, hobs]

/-- Settles O40: by how many payload bytes were taken, the size is the one held or the two bytes (R114, R92). -/
theorem getWidgetParametersOtherLengths : Obligations.GetWidgetParametersOtherLengths := by
  intro s body rest hw hm
  obtain ⟨hp, hrx⟩ := hm.bytes rfl
  cases body with
  | oversized len => exact runFrame_oversized .getWidgetParameters configPayload hp hrx
  | framed len p e =>
    intro hne z t
    obtain ⟨-, htaken⟩ := (Body.wellFormed_framed sizeField len p e).1 hw
    have hlen2 : len.toNat ≠ 2 := fun h => hne (BitVec.eq_of_toNat_eq h)
    have hsize : configPayload p (s.afterFrame .getWidgetParameters (.framed len p e) rest) = t := by
      rw [sizeField_eq] at htaken
      rw [configPayload_eq]
      by_cases hlt : len.toNat < 2
      · simp only [t, z, if_pos hlt, if_neg (by omega : p.length ≠ 2)]
        rfl
      · simp only [t, z, if_neg hlt, if_pos (by omega : p.length = 2)]
    have hrun := runFrame_effectOf_framed .getWidgetParameters hp hrx
    simp only [effectOf, hsize, append_replyBytes_getWidgetParameters] at hrun
    exact hrun

/-- Settles O41: the payload effect stores the block or nothing, and the label has no reply (R115, R93). -/
theorem storeWidgetParametersStores : Obligations.StoreWidgetParametersStores := by
  intro s body rest hw hm
  obtain ⟨hp, hrx⟩ := hm.bytes rfl
  cases body with
  | oversized len => exact runFrame_oversized .storeWidgetParameters parameterPayload hp hrx
  | framed len p e =>
    obtain ⟨-, htaken⟩ := (Body.wellFormed_framed wholePayload len p e).1 hw
    replace htaken : p.length = len.toNat := htaken
    refine (runFrame_unanswered (l := .storeWidgetParameters) nofun nofun rfl nofun hp hrx).trans ?_
    by_cases h5 : 5 ≤ len.toNat
    · simp only [effectOf, parameterPayload_long (htaken ▸ h5), if_pos h5]
      rfl
    · simp only [effectOf, parameterPayload_short (by omega : p.length < 5), if_neg h5]
      rfl

/-- An event handed over under a condition, as one update of the caller's record. -/
theorem ite_observed_eq {t : State} {obs : List Observation} (h : t.observed = obs) (c : Prop) [Decidable c]
    (new : List Observation) :
    (if c then { t with observed := obs ++ new } else t) = { t with observed := obs ++ if c then new else [] } := by
  subst h
  split
  · rfl
  · rw [List.append_nil]

/-- Settles O42: the channels are those of the whole payload's effect, every other field the frame's (R117). -/
theorem sendDmxDataSetsChannels : Obligations.SendDmxDataSetsChannels := by
  intro s body rest hwf _ hm
  obtain ⟨hp, hrx⟩ := hm.bytes rfl
  cases body with
  | oversized len => exact runFrame_oversized .sendDmxData channelPayload hp hrx
  | framed len p e =>
    have hobs : (channelPayload p (s.afterFrame .sendDmxData (.framed len p e) rest)).observed = s.observed := by
      rw [channelPayload_eq]
      rfl
    have hrun := runFrame_unanswered (l := .sendDmxData) nofun nofun rfl nofun hp hrx
    refine ⟨_, hrun.trans (congrArg _ (ite_observed_eq hobs _ _)), ?_, ?_⟩
    · rw [channelPayload_eq]
      rfl
    · exact channelPayload_read p _ hwf

/-- Settles O43: the payload has no effect, and END brings the serial reply (R118, R133). -/
theorem getWidgetSerialReplies : Obligations.GetWidgetSerialReplies := by
  intro s body rest _ hm
  obtain ⟨hp, hrx⟩ := hm.bytes rfl
  cases body with
  | oversized len => exact runFrame_oversized .getWidgetSerial discardPayload hp hrx
  | framed len p e =>
    refine (runFrame_effectOf_framed .getWidgetSerial hp hrx).trans ?_
    simp only [effectOf, discardPayload, replyBytes_getWidgetSerial, reportEvent_eq]
    simp only [Body.completes, beq_iff_eq]
    rfl

/-! ## Frames that do not complete -/

/-- What the same frame with a right END does from the same place: dispatch, after the same payload effect. -/
theorem exec_mended {i : Instr} {s : State} {len : Half} {p : List Byte} {e : Byte} (rest : List Byte)
    (hb : i.body? = some (.framed len p e)) (hp : s.parse = .idle) :
    exec (i.mapBody .mended) { s with rx := encode (i.mapBody .mended) ++ rest } =
      .next
        (let t := effectOf i.label p (s.afterFrame i.label (.framed len p e) rest)
        reportEvent (eventOf i.label) { t with tx := t.tx ++ replyBytes i.label t }) := by
  have hb' := Instr.body_mapBody .mended hb
  have hm : State.meets { s with rx := encode (i.mapBody .mended) ++ rest } (i.mapBody .mended) rest := ⟨hp, rfl⟩
  rw [exec_eq_runFrame hb', Instr.label_mapBody]
  exact runFrame_effectOf_framed i.label hp (hm.bytes hb').2

/-- Dispatch writes `tx` and the caller's record alone. -/
theorem eq_dispatched_with_streams {t : State} {tx : List Byte} {obs : List Observation} (ev : Event)
    (reply : List Byte) (htx : t.tx = tx) (hobs : t.observed = obs) :
    t = { reportEvent ev { t with tx := t.tx ++ reply } with tx := tx, observed := obs } := by
  subst htx hobs
  rw [reportEvent_eq]

/-- Settles O44: the frame and the same frame with a right END run alike up to dispatch, which writes `tx` and the
caller's record alone (R120). -/
theorem incompleteFramesAreSilent : Obligations.IncompleteFramesAreSilent := by
  intro i body s rest hb _ hc hm
  obtain ⟨hp, hrx⟩ := hm.bytes hb
  rw [exec_eq_runFrame hb]
  cases body with
  | oversized len =>
    exact ⟨_, runFrame_oversized i.label _ hp hrx, hp, rfl, rfl, rfl, rfl, rfl, rfl, rfl, rfl⟩
  | framed len p e =>
    have he : e ≠ Config.endByte := by simpa [Body.completes] using hc
    have hrun := runFrame_effectOf_framed i.label hp hrx
    simp only [if_neg he] at hrun
    have hkeeps := effectOf_keeps_framing i.label p (s.afterFrame i.label (.framed len p e) rest)
    have htx := congrArg State.tx hkeeps
    have hobs := congrArg State.observed hkeeps
    exact ⟨_, hrun, (congrArg State.parse hkeeps).trans hp, congrArg State.rx hkeeps, htx, hobs, _,
      exec_mended rest hb hp, eq_dispatched_with_streams _ _ htx hobs⟩

end Sys2Proof.Machine
end

section
/-! PROOFS. The decoder (30_encoding.md): a frame is read back from its bytes and every frame read is its bytes, the
LABEL table, and where the delimiters are recognised. -/

namespace Sys2Proof

/-! ## Frames and their bytes -/

theorem isFrame_build (r : LabelRow) (label : Byte) (body : Body) : (r.build label body).isFrame = true := by
  rw [Instr.isFrame, LabelRow.body_build]
  rfl

/-- A body's bytes after LABEL are read back (R50, R53). -/
theorem decodeBody_oversized (r : LabelRow) (label : Byte) {len : Half} (rest : List Byte)
    (h : Config.maxLen < len.toNat) :
    decodeBody r label (loByte len :: hiByte len :: rest) = .ok (r.build label (.oversized len), rest) := by
  simp only [decodeBody, le16_loByte_hiByte, if_pos h]

theorem decodeBody_framed (r : LabelRow) (label : Byte) {len : Half} {p : List Byte} (e : Byte) (rest : List Byte)
    (h : len.toNat ≤ Config.maxLen) (hp : p.length = r.taken len.toNat) :
    decodeBody r label (loByte len :: hiByte len :: (p ++ e :: rest)) =
      .ok (r.build label (.framed len p e), rest) := by
  simp only [decodeBody, le16_loByte_hiByte, if_neg (Nat.not_lt.2 h), ← hp, List.drop_left, List.take_left]

/-- The bytes of a body the decoder can produce are read back whole, and what follows them is left. -/
theorem decodeFrame_encodeBody (label : Byte) {body : Body} (rest : List Byte)
    (h : body.wellFormed (rowOf label).taken = true) :
    decodeFrame (encodeBody label body ++ rest) = .ok ((rowOf label).build label body, rest) := by
  cases body with
  | oversized len => exact decodeBody_oversized _ label rest ((Body.wellFormed_oversized _ len).1 h)
  | framed len p e =>
    obtain ⟨hlen, hp⟩ := (Body.wellFormed_framed _ len p e).1 h
    have := decodeBody_framed (rowOf label) label e rest hlen hp
    simpa [encodeBody, frameHeader, decodeFrame] using this

/-- Whatever is read after LABEL is a body the decoder can produce, and is the bytes it was read from. -/
theorem of_decodeBody {r : LabelRow} {label : Byte} {bytes rest : List Byte} {i : Instr}
    (h : decodeBody r label bytes = .ok (i, rest)) :
    ∃ body, i = r.build label body ∧ body.wellFormed r.taken = true ∧
      Config.startByte :: label :: bytes = encodeBody label body ++ rest := by
  match bytes, h with
  | lo :: hi :: tail, h =>
    simp only [decodeBody] at h
    split at h
    · next hlen =>
      cases h
      exact ⟨_, rfl, (Body.wellFormed_oversized _ _).2 hlen, by simp [encodeBody, frameHeader]⟩
    · next hlen =>
      split at h
      · next e tail' hdrop =>
        cases h
        have htake := List.take_append_drop (r.taken (le16 lo hi).toNat) tail
        have hshort : r.taken (le16 lo hi).toNat < tail.length := by
          have := congrArg List.length hdrop
          simp only [List.length_drop, List.length_cons] at this
          omega
        refine ⟨_, rfl, (Body.wellFormed_framed _ _ _ _).2 ⟨Nat.not_lt.1 hlen, ?_⟩, ?_⟩
        · exact List.length_take_of_le (Nat.le_of_lt hshort)
        · rw [hdrop] at htake
          simp [encodeBody, frameHeader, htake]
      · exact nomatch h
  | [], h | [_], h => exact nomatch h

/-- Whatever whole frame is read is one the decoder can produce, and is the bytes it was read from. -/
theorem of_decodeFrame {bytes rest : List Byte} {i : Instr} (h : decodeFrame bytes = .ok (i, rest)) :
    ∃ label body, i = (rowOf label).build label body ∧ body.wellFormed (rowOf label).taken = true ∧
      bytes = encodeBody label body ++ rest := by
  match bytes, h with
  | b :: label :: tail, h =>
    simp only [decodeFrame] at h
    split at h
    · next hb =>
      obtain ⟨body, hi, hw, hbytes⟩ := of_decodeBody h
      exact ⟨label, body, hi, hw, hb ▸ hbytes⟩
    · exact nomatch h
  | [b], h =>
    simp only [decodeFrame] at h
    split at h <;> exact nomatch h
  | [], h => exact nomatch h

/-- Settles O14: a frame is what its LABEL byte's row builds, and the row reads its body's bytes back. -/
theorem decodeOfEncodedFrame : Obligations.DecodeOfEncodedFrame := by
  intro i rest hi hw
  obtain ⟨body, hb⟩ := Option.isSome_iff_exists.1 hi
  have hbuild := build_labelByte hb
  rw [← hbuild, LabelRow.wellFormed_build] at hw
  have h := decodeFrame_encodeBody i.labelByte rest hw
  rw [hbuild] at h
  rw [encode_of_body hb, decodeAt, h]

/-- Settles O15: the row that reads a body builds a frame with that body, whose bytes are those that were read. -/
theorem decodedFrameIsItsBytes : Obligations.DecodedFrameIsItsBytes := by
  intro bytes rest i h
  obtain ⟨label, body, rfl, hw, hbytes⟩ := of_decodeFrame h
  exact ⟨isFrame_build _ _ _, by rwa [LabelRow.wellFormed_build], by rwa [encode_build]⟩

/-! ## Where an instruction is recognised -/

/-- The three ways the decoder reads an instruction (R51). -/
theorem of_decodeAt {p : ParseState} {bytes rest : List Byte} {i : Instr} (h : decodeAt p bytes = .ok (i, rest)) :
    (p = .idle ∧ decodeFrame bytes = .ok (i, rest)) ∨
      (p = .idle ∧ i = .start ∧ bytes = Config.startByte :: rest) ∨
      (p = .awaitingEnd ∧ i = .endDelim ∧ bytes = Config.endByte :: rest) := by
  match p, bytes, h with
  | .idle, bytes, h =>
    simp only [decodeAt] at h
    split at h
    · next htrunc =>
      obtain ⟨tail, rfl⟩ := start_of_truncated htrunc
      cases h
      exact .inr (.inl ⟨rfl, rfl, rfl⟩)
    · exact .inl ⟨rfl, h⟩
  | .awaitingEnd, b :: tail, h =>
    simp only [decodeAt] at h
    split at h
    · next hb =>
      cases h
      exact .inr (.inr ⟨rfl, rfl, by rw [hb]⟩)
    · exact nomatch h
  | .awaitingEnd, [], h | .awaitingLabel, _, h | .awaitingLength, _, h | .awaitingPayload, _, h => exact nomatch h

/-- A whole frame is neither delimiter. -/
theorem isFrame_of_decodeFrame_ok {bytes rest : List Byte} {i : Instr} (h : decodeFrame bytes = .ok (i, rest)) :
    i.isFrame = true := (decodedFrameIsItsBytes bytes rest i h).1

/-- Settles O13: of the three ways the decoder reads an instruction, each delimiter has one; inside a frame there is
none. -/
theorem delimitersDecodeByPosition : Obligations.DelimitersDecodeByPosition := by
  intro p bytes rest
  refine ⟨fun h => ?_, ⟨fun h => ?_, ?_⟩, fun hidle hend => ?_⟩
  · rcases of_decodeAt h with ⟨-, hf⟩ | ⟨hp, -, hb⟩ | ⟨-, hi, -⟩
    · exact nomatch isFrame_of_decodeFrame_ok hf
    · exact ⟨hp, hb⟩
    · exact nomatch hi
  · rcases of_decodeAt h with ⟨-, hf⟩ | ⟨-, hi, -⟩ | ⟨hp, -, hb⟩
    · exact nomatch isFrame_of_decodeFrame_ok hf
    · exact nomatch hi
    · exact ⟨hp, hb⟩
  · rintro ⟨rfl, rfl⟩
    rfl
  · cases p with
    | idle => exact absurd rfl hidle
    | awaitingEnd => exact absurd rfl hend
    | _ => rfl

/-! ## Labels and written-out words -/

/-- Settles O10: each word is decoded. -/
theorem writtenOutWordsDecode : Obligations.WrittenOutWordsDecode := by
  unfold Obligations.WrittenOutWordsDecode
  decide

/-- Settles O11: row by row, over the 256 LABEL bytes. -/
theorem labelRowsCoverEveryByteOnce : Obligations.LabelRowsCoverEveryByteOnce := by
  intro label r
  revert label
  cases r <;> decide

/-- Settles O12: the search among the named labels finds a code's own label, and finds nothing for another byte. -/
theorem coercionKeepsOnlyNamedCodes : Obligations.CoercionKeepsOnlyNamedCodes := by
  refine ⟨fun l => ?_, fun b hb => ?_⟩
  · cases l <;> decide
  · have hnone : (namedLabels.find? fun l => l.code == b) = none :=
      List.find?_eq_none.2 fun l _ h => hb l (eq_of_beq h).symm
    rw [coerce, hnone]
    rfl

end Sys2Proof
end

section
/-! PROOFS. The encoder and dispatch (43_encoder.md, 42_message_dispatch.md), the channel buffer
(44_channel_buffer_and_accessors.md), and the rows of the table beside the frames met in `Idle`. -/

namespace Sys2Proof.Machine

/-! ## The encoder -/

theorem loByte_ofNat (n : Nat) : loByte (BitVec.ofNat 16 n) = BitVec.ofNat 8 (n % 65536 % 256) :=
  BitVec.eq_of_toNat_eq (by rw [loByte_toNat, BitVec.toNat_ofNat, BitVec.toNat_ofNat, Nat.mod_mod])

theorem hiByte_ofNat (n : Nat) : hiByte (BitVec.ofNat 16 n) = BitVec.ofNat 8 (n % 65536 / 256) :=
  BitVec.eq_of_toNat_eq (by rw [hiByte_toNat, BitVec.toNat_ofNat, BitVec.toNat_ofNat]; omega)

/-- Settles O47: `sendFrame_eq`, with the two LENGTH bytes as numbers. -/
theorem sendFrameWritesOneFrame : Obligations.SendFrameWritesOneFrame := by
  intro s l p z
  rw [sendFrame_eq, frameHeader, outboundLength, loByte_ofNat, hiByte_ofNat]
  rfl

theorem serialize_eq (s : State) : serialize s = [0x00, 0x01, s.breakTime, s.mabTime, s.rate] := by
  have hlo : loByte Config.fwVersion = 0x00 := by decide
  have hhi : hiByte Config.fwVersion = 0x01 := by decide
  rw [serialize, State.firmwareVersion, hlo, hhi]

/-- The parameter reply, byte by byte (R59, R132). -/
theorem replyBytes_getWidgetParameters_eq (s : State) :
    replyBytes .getWidgetParameters s =
      [0x7E, 0x03, loByte (BitVec.ofNat 16 (5 + s.cfgSize.toNat)), hiByte (BitVec.ofNat 16 (5 + s.cfgSize.toNat)),
        0x00, 0x01, s.breakTime, s.mabTime, s.rate] ++ List.replicate s.cfgSize.toNat 0 ++ [0xE7] := by
  rw [replyBytes_getWidgetParameters, serialize_eq]
  rfl

/-- The serial reply, byte by byte (R60, R133). -/
theorem replyBytes_getWidgetSerial_eq (s : State) :
    replyBytes .getWidgetSerial s =
      [0x7E, 0x0A, 0x04, 0x00, s.serial.b0, s.serial.b1, s.serial.b2, s.serial.b3, 0xE7] := by
  rw [replyBytes_getWidgetSerial]
  rfl

/-- An upload's frame (R61, R135). -/
def notificationBytes (valid : Bool) (data : List Byte) : List Byte :=
  [0x7E, 0x05, loByte (BitVec.ofNat 16 (data.length + 2)), hiByte (BitVec.ofNat 16 (data.length + 2)),
    Config.validFlagByte valid, 0x00] ++ data ++ [0xE7]

/-- An upload appends its frame to `tx` and does nothing else (R135). -/
theorem uploadDmx_eq (valid : Bool) (data : List Byte) (s : State) :
    uploadDmx valid data s = { s with tx := s.tx ++ notificationBytes valid data } := by
  rw [uploadDmx, sendFrame_eq, List.replicate_zero, List.append_nil]
  rfl

/-- Settles O48: the replies are what dispatch appends, the notification what an upload does (R132, R133, R135). -/
theorem outboundRowsWriteTheirFrames : Obligations.OutboundRowsWriteTheirFrames := by
  intro s valid data len n
  refine ⟨?_, ?_, congrArg Host.Outcome.next (uploadDmx_eq valid data s)⟩
  · rw [← replyBytes_getWidgetParameters_eq]
    exact congrArg (fun r => Host.Outcome.next r.1) (dispatchMessage_eq .getWidgetParameters s)
  · rw [← replyBytes_getWidgetSerial_eq]
    exact congrArg (fun r => Host.Outcome.next r.1) (dispatchMessage_eq .getWidgetSerial s)

/-- Settles O27: dispatch by its cases (R110). -/
theorem dispatchRepliesAndEvents : Obligations.DispatchRepliesAndEvents := by
  refine fun s => ⟨rfl, rfl, rfl, rfl, fun l hl => ?_⟩
  simp only [List.mem_cons, List.not_mem_nil, or_false] at hl
  rcases hl with rfl | rfl | rfl | rfl <;> rfl

/-! ## The channel buffer -/

/-- Settles O49: the four laws of `ChanWrite` (R150, R166). -/
theorem channelWriteIsBoundedAndLocal : Obligations.ChannelWriteIsBoundedAndLocal := by
  refine fun s i j v h => ⟨chanWrite_wf i v s h, chanWrite_read i j v s h, ?_, fun hi => ?_⟩
  · rw [chanWrite_eq]
  · rw [chanWrite, if_neg (Nat.not_lt.2 hi)]

/-! ## The rows beside the frames met in `Idle` -/

/-- An invocation with its event handed over always answers. -/
theorem poll_answers (k : Nat) (s : State) : ∃ t, poll k s = .next t := by
  obtain ⟨t, e, h, -⟩ := process_invocation k s
  exact ⟨reportEvent e t, by rw [poll, h, andThen_next]⟩

/-- Settles O45: every inbound row is `runFrame`, which outside `Idle` is one invocation. -/
theorem frameOutsideIdleIsOneInvocation : Obligations.FrameOutsideIdleIsOneInvocation := by
  intro i s hi hp
  obtain ⟨body, hb⟩ := Option.isSome_iff_exists.1 hi
  obtain ⟨t, ht⟩ := poll_answers (Config.dmxBurst s.choices) { s with choices := s.choices + 1 }
  refine ⟨t, ht, ?_⟩
  rw [exec_eq_runFrame hb, runFrame_of_ne_idle _ _ _ hp]
  exact ht

theorem execStart_idle {s : State} {rest : List Byte} (hp : s.parse = .idle) (hrx : s.rx = Config.startByte :: rest) :
    exec .start s = .next { s with rx := rest, parse := .awaitingLabel } := by
  simp only [exec, execStart, if_pos hp, rxRead1_cons hrx, andThen_next]

theorem poll_start (k : Nat) {s : State} {rest : List Byte} (hp : s.parse = .idle)
    (hrx : s.rx = Config.startByte :: rest) :
    poll k s = .next { s with rx := rest, parse := .awaitingLabel } :=
  poll_of_process ((process_idle k hp (by simp [hrx])).trans (stepIdle_cons hp hrx))

/-- The dispatch of a completed message, with its event handed over. -/
def completeMessage (s : State) (rest : List Byte) : State :=
  reportEvent (dispatchMessage s.label { s with rx := rest, parse := .idle }).2
    (dispatchMessage s.label { s with rx := rest, parse := .idle }).1

theorem execEndDelim_awaitingEnd {s : State} {rest : List Byte} (hp : s.parse = .awaitingEnd)
    (hrx : s.rx = Config.endByte :: rest) : exec .endDelim s = .next (completeMessage s rest) := by
  simp only [exec, execEndDelim, if_pos hp, rxRead1_cons hrx, andThen_next, completeMessage]

theorem poll_endDelim (k : Nat) {s : State} {rest : List Byte} (hp : s.parse = .awaitingEnd)
    (hrx : s.rx = Config.endByte :: rest) : poll k s = .next (completeMessage s rest) := by
  rw [poll, process_awaitingEnd k hp (by simp [hrx]), stepEnd_cons hrx, if_pos rfl, andThen_next, completeMessage]

/-- Settles O46: in its own parse state a delimiter is the invocation that reads it; elsewhere its meaning is one
invocation by definition. -/
theorem delimitersAreTheirInvocations : Obligations.DelimitersAreTheirInvocations := by
  refine fun k s rest => ⟨fun hp hrx => ?_, fun hp hrx => ?_, fun hp => if_neg hp, fun hp => if_neg hp⟩
  · exact ⟨execStart_idle hp hrx, (poll_start k hp hrx).trans (execStart_idle hp hrx).symm⟩
  · exact ⟨execEndDelim_awaitingEnd hp hrx,
      (poll_endDelim k hp hrx).trans (execEndDelim_awaitingEnd hp hrx).symm⟩

/-- Settles O39: the payload's effect is the size its two bytes make, and END brings the padded reply (R114, R132). -/
theorem getWidgetParametersReplies : Obligations.GetWidgetParametersReplies := by
  intro s z e rest body t len hm
  obtain ⟨hp, hrx⟩ := hm.bytes rfl
  have hsize : configPayload [loByte z, hiByte z] (s.afterFrame .getWidgetParameters body rest) = t := by
    rw [configPayload_two, le16_loByte_hiByte]
  refine (runFrame_effectOf_framed .getWidgetParameters hp hrx).trans ?_
  simp only [effectOf]
  rw [hsize, replyBytes_getWidgetParameters_eq, reportEvent_eq]
  rfl

end Sys2Proof.Machine
end

section
/-! PROOFS. One invocation of `Process` (40_framing_fsm.md, 41_payload_handlers.md): what it answers in each case, and
that `Invocation`, with the channels it writes, is exactly what it does. -/

namespace Sys2Proof.Machine

/-! ## The cases that need no handler -/

theorem process_nil (k : Nat) {s : State} (hr : s.rx = []) : process k s = .next (s, .none) := by
  simp [process, hr]

/-- Settles O16: the gate on waiting bytes (R70). -/
theorem processWithoutBytesDoesNothing : Obligations.ProcessWithoutBytesDoesNothing :=
  fun k _ hr => process_nil k hr

theorem process_lengthWaits (k : Nat) {s : State} {b : Byte} (hp : s.parse = .awaitingLength) (hrx : s.rx = [b]) :
    process k s = .next (s, .none) := by
  simp [process, hrx, hp, stepLength]

theorem process_usedUp (k : Nat) {s : State} (hp : s.parse = .awaitingPayload) (hr : s.rx ≠ [])
    (hd : s.received = s.length) : process k s = .next ({ s with parse := .awaitingEnd }, .none) := by
  simp [process, hr, hp, stepPayload, hd]

theorem process_lengthDropped (k : Nat) {s : State} {b0 b1 : Byte} {rest : List Byte} (hp : s.parse = .awaitingLength)
    (hrx : s.rx = b0 :: b1 :: rest) (hlen : Config.maxLen < (le16 b0 b1).toNat) :
    process k s = .next ({ s with rx := rest, parse := .idle }, .none) := by
  rw [process_awaitingLength k hp hrx, if_pos hlen]

theorem process_lengthAccepted (k : Nat) {s : State} {b0 b1 : Byte} {rest : List Byte} (hp : s.parse = .awaitingLength)
    (hrx : s.rx = b0 :: b1 :: rest) (hlen : (le16 b0 b1).toNat ≤ Config.maxLen) :
    process k s =
      .next ({ s with rx := rest, length := le16 b0 b1, received := 0, parse := .awaitingPayload }, .none) := by
  rw [process_awaitingLength k hp hrx, if_neg (Nat.not_lt.2 hlen)]

/-- Settles O19: the oversized branch of `StepLength` (R162). -/
theorem oversizedLengthIsDropped : Obligations.OversizedLengthIsDropped := by
  intro k s b0 b1 rest hp hrx hlen
  rw [← le16_toNat] at hlen
  exact process_lengthDropped k hp hrx hlen

/-- Settles O20: the two other branches of `StepLength` (R73). -/
theorem lengthStepWaitsOrAccepts : Obligations.LengthStepWaitsOrAccepts := by
  refine fun k s hp => ⟨fun b hrx => process_lengthWaits k hp hrx, fun b0 b1 rest hrx hlen => ?_⟩
  rw [← le16_toNat] at hlen
  exact ⟨_, process_lengthAccepted k hp hrx hlen, le16_toNat b0 b1, rfl⟩

/-- Settles O21: the completion test of `StepPayload` (R74). -/
theorem usedUpPayloadAwaitsEnd : Obligations.UsedUpPayloadAwaitsEnd :=
  fun k _ hp hr hd => process_usedUp k hp hr hd

/-- A right END dispatches the message (R75, R110). -/
theorem process_completed (k : Nat) {s : State} {rest : List Byte} (hp : s.parse = .awaitingEnd)
    (hrx : s.rx = Config.endByte :: rest) :
    process k s =
      .next ({ s with rx := rest, parse := .idle, tx := s.tx ++ replyBytes s.label s }, eventOf s.label) := by
  have hreply : replyBytes s.label { s with rx := rest, parse := .idle } = replyBytes s.label s :=
    replyBytes_congr s.label rfl rfl rfl rfl rfl
  rw [process_awaitingEnd k hp (by simp [hrx]), stepEnd_cons hrx, if_pos rfl, dispatchMessage_eq, hreply]

/-! ## The handlers -/

/-- The byte that comes next is counted and discarded (R91). -/
theorem process_discards (k : Nat) {s : State} {b : Byte} {rest : List Byte} (hp : s.parse = .awaitingPayload)
    (hne : s.received ≠ s.length) (hd : s.Discards) (hrx : s.rx = b :: rest) :
    process k s = .next ({ s with rx := rest, received := s.received + 1 }, .none) := by
  rw [process_handler k hp (by simp [hrx]) hne, handler_of_discards k hd, hDiscard_cons hrx, andThen_next]

theorem process_sizeWaits (k : Nat) {s : State} {b : Byte} (hp : s.parse = .awaitingPayload)
    (hne : s.received ≠ s.length) (hl : s.label = .getWidgetParameters) (h2 : 2 ≤ s.length.toNat)
    (hrx : s.rx = [b]) : process k s = .next (s, .none) := by
  rw [process_handler k hp (by simp [hrx]) hne]
  simp [handler, hl, hGetParams_eq, h2, hrx]

/-- The size field is taken whole (R92). -/
theorem process_sizeTaken (k : Nat) {s : State} {b0 b1 : Byte} {rest : List Byte} (hp : s.parse = .awaitingPayload)
    (hne : s.received ≠ s.length) (hl : s.label = .getWidgetParameters) (h2 : 2 ≤ s.length.toNat)
    (hrx : s.rx = b0 :: b1 :: rest) :
    process k s =
      .next ({ s with rx := rest, cfgSize := le16 b0 b1, received := 2, parse := .awaitingEnd }, .none) := by
  rw [process_handler k hp (by simp [hrx]) hne]
  simp [handler, hl, hGetParams_eq, h2, hrx, rxReadN_two hrx, storeConfigSize]

theorem process_blockWaits (k : Nat) {s : State} (hp : s.parse = .awaitingPayload) (hr : s.rx ≠ [])
    (hne : s.received ≠ s.length) (hl : s.label = .storeWidgetParameters) (h5 : 5 ≤ s.length.toNat)
    (h0 : s.received = 0) (hshort : s.rx.length < 5) : process k s = .next (s, .none) := by
  rw [process_handler k hp hr hne]
  simp [handler, hl, hStoreParams_eq, h5, h0, hshort]

/-- The parameter block is taken whole (R93). -/
theorem process_blockTaken (k : Nat) {s : State} {q0 q1 b m r : Byte} {rest : List Byte}
    (hp : s.parse = .awaitingPayload) (hne : s.received ≠ s.length) (hl : s.label = .storeWidgetParameters)
    (h5 : 5 ≤ s.length.toNat) (h0 : s.received = 0) (hrx : s.rx = q0 :: q1 :: b :: m :: r :: rest) :
    process k s =
      .next ({ s with rx := rest, breakTime := b, mabTime := m, rate := r, received := 5 }, .none) := by
  rw [process_handler k hp (by simp [hrx]) hne]
  simp only [handler, hl, hStoreParams_eq, if_pos (And.intro h5 h0), if_neg (by simp [hrx] : ¬ s.rx.length < 5),
    rxReadN_five hrx, andThen_next, storeParameters]

/-- With no byte left of the payload in a state no run reaches, the handler still takes one (log 9). -/
theorem burst_of_not_lt (k : Nat) {s : State} (h : ¬ s.received.toNat < s.length.toNat) : burst k s = 1 := by
  unfold burst
  omega

/-- The invocation is one of the send_dmx_data handler: the one kind whose result depends on DMX_BURST. -/
structure State.TakesBurst (s : State) : Prop where
  parse_eq : s.parse = .awaitingPayload
  rx_ne : s.rx ≠ []
  received_ne : s.received ≠ s.length
  label_eq : s.label = .sendDmxData

/-- The state after the next `n` payload bytes have gone to the channels (`process_burst`). -/
def State.afterBurst (s : State) (n : Nat) : State :=
  { s with
    rx := s.rx.drop n
    received := s.received + BitVec.ofNat 16 n
    chan := (dmxWrite s.received.toNat (s.rx.take n) s).chan }

/-- A burst of send_dmx_data bytes (R94), in every state. -/
theorem process_burst (k : Nat) {s : State} (h : s.TakesBurst) :
    process k s = .next (s.afterBurst (burst k s), .none) := by
  obtain ⟨hp, hr, hne, hl⟩ := h
  by_cases hlt : s.received.toNat < s.length.toNat
  · exact process_channels k hp hl hr hlt
  · obtain ⟨b, rest, hrx⟩ := List.exists_cons_of_ne_nil hr
    rw [process_handler k hp hr hne, State.afterBurst, burst_of_not_lt k hlt]
    simp only [handler, hl, hDmx, burst_of_not_lt k hlt, hDmxLoop, rxRead1_cons hrx, andThen_next, hrx,
      List.take_succ_cons, List.take_zero, List.drop_succ_cons, List.drop_zero, dmxWrite_cons, dmxWrite_nil]
    split <;> simp [chanWrite_eq]

/-! ## `Invocation` is what an invocation does -/

/-- An invocation that is no burst answers what `Invocation` lists, whatever DMX_BURST asks for. -/
theorem process_of_invocation {k : Nat} {s t : State} {e : Event} (h : Invocation k s t e) (hn : ¬ s.TakesBurst)
    (j : Nat) : process j s = .next (t, e) := by
  cases h with
  | noBytes hr => exact process_nil j hr
  | start hp hrx => rw [process_idle j hp (by simp [hrx]), stepIdle_cons hp hrx, if_pos rfl]
  | noise hp hrx hb => rw [process_idle j hp (by simp [hrx]), stepIdle_cons hp hrx, if_neg hb, ← hp]
  | label hp hrx => exact (process_awaitingLabel j hp (by simp [hrx])).trans (stepLabel_cons hrx)
  | lengthWaits hp hrx => exact process_lengthWaits j hp hrx
  | lengthDropped hp hrx hlen => exact process_lengthDropped j hp hrx hlen
  | lengthAccepted hp hrx hlen => exact process_lengthAccepted j hp hrx hlen
  | payloadDone hp hr hd => exact process_usedUp j hp hr hd
  | discards hp hne hrx hch hsize hblock =>
    exact process_discards j hp hne ⟨hch, hsize, fun hl h5 h0 => hblock hl ⟨h5, h0⟩⟩ hrx
  | sizeWaits hp hne hl h2 hrx => exact process_sizeWaits j hp hne hl h2 hrx
  | sizeTaken hp hne hl h2 hrx => exact process_sizeTaken j hp hne hl h2 hrx
  | blockWaits hp hne hl h5 h0 hr hshort => exact process_blockWaits j hp hr hne hl h5 h0 hshort
  | blockTaken hp hne hl h5 h0 hrx => exact process_blockTaken j hp hne hl h5 h0 hrx
  | channels hp hne hl hr _ => exact absurd ⟨hp, hr, hne, hl⟩ hn
  | completed hp hrx he =>
    subst he
    exact process_completed j hp hrx
  | wrongEnd hp hrx hb => rw [process_awaitingEnd j hp (by simp [hrx]), stepEnd_cons hrx, if_neg hb]

/-- Settles O22: none of the five labels has another handler (R90, R91). -/
theorem discardTakesOneByte : Obligations.DiscardTakesOneByte := by
  intro k s b rest hl hp hlt hrx
  have hd : s.Discards := by constructor <;> intro h <;> simp [h] at hl
  exact process_discards k hp (received_ne hlt) hd hrx

/-- Settles O23: by LENGTH and by how much of the size field waits (R92). -/
theorem getParamsHandlerTakesSize : Obligations.GetParamsHandlerTakesSize := by
  intro k s hp hl h0
  have hne (h : 0 < s.length.toNat) : s.received ≠ s.length := received_ne (received_lt h0 h)
  refine ⟨fun b0 b1 rest h2 hrx => ?_, fun b h2 hrx => ?_, fun b rest h1 hrx => ?_⟩
  · exact ⟨_, process_sizeTaken k hp (hne (by omega)) hl h2 hrx, le16_toNat b0 b1, rfl⟩
  · exact process_sizeWaits k hp (hne (by omega)) hl h2 hrx
  · have hd : s.Discards := ⟨by simp [hl], fun _ => by simp [h1], by simp [hl]⟩
    rw [process_discards k hp (hne (by simp [h1])) hd hrx, h0]
    rfl

/-- Settles O24: the block, the wait for it, and the bytes that are discarded (R93). -/
theorem storeParamsHandlerTakesBlock : Obligations.StoreParamsHandlerTakesBlock := by
  intro k s hp hl
  have hne (h5 : 5 ≤ s.length.toNat) (h0 : s.received = 0) : s.received ≠ s.length :=
    received_ne (received_lt h0 (by omega))
  refine ⟨fun q0 q1 b m r rest h5 h0 hrx => ?_, fun h5 h0 hshort => ?_, fun b rest hno hlt hrx => ?_⟩
  · exact process_blockTaken k hp (hne h5 h0) hl h5 h0 hrx
  · by_cases hr : s.rx = []
    · exact process_nil k hr
    · exact process_blockWaits k hp hr (hne h5 h0) hl h5 h0 hshort
  · have hd : s.Discards := ⟨by simp [hl], by simp [hl], fun _ h5 => hno.resolve_left (Nat.not_lt.2 h5)⟩
    exact process_discards k hp (received_ne hlt) hd hrx

/-- What a channel reads as after the bytes `p` of a payload from offset `r` on: the byte at offset `j >= 1` is
channel index `j - 1`'s (R94). -/
theorem dmxWrite_read (r : Nat) (p : List Byte) {s : State} (h : s.chan.wf = true) (i : Nat) :
    (dmxWrite r p s).chan.read i =
      if r ≤ i + 1 ∧ i + 1 < r + p.length ∧ i < s.capacity then p.getD (i + 1 - r) 0 else s.chan.read i := by
  unfold dmxWrite
  split
  · next hr =>
    subst hr
    rw [writeChannels_read 0 p.tail s h]
    cases p <;> simp
  · next hr =>
    rw [writeChannels_read (r - 1) p s h, show i - (r - 1) = i + 1 - r by omega]
    exact if_congr (by omega) rfl rfl

/-- Which channels the next `n` payload bytes set. -/
theorem afterBurst_read {s : State} {n : Nat} (h : s.chan.wf = true) (hn : n ≤ s.rx.length) (i : Nat) :
    (s.afterBurst n).chan.read i =
      if s.received.toNat ≤ i + 1 ∧ i + 1 < s.received.toNat + n ∧ i < s.capacity
      then s.rx.getD (i + 1 - s.received.toNat) 0 else s.chan.read i := by
  rw [State.afterBurst, dmxWrite_read _ _ h, List.length_take_of_le hn]
  split
  · next hi =>
    rw [List.getD_eq_getElem?_getD, List.getD_eq_getElem?_getD, List.getElem?_take_of_lt (by omega)]
  · rfl

/-- Settles O25: the handler's burst, whose bytes `afterBurst_read` places (R94). -/
theorem dmxHandlerWritesChannels : Obligations.DmxHandlerWritesChannels := by
  intro k s hp hl hr hlt hwf
  have havail := burst_le_avail k s hr
  have hleft := burst_le_remaining k s hlt
  exact ⟨burst k s, _, process_burst k ⟨hp, hr, received_ne hlt, hl⟩, burst_pos k s, havail, hleft, rfl,
    received_add (by omega), afterBurst_read hwf havail⟩

end Sys2Proof.Machine
end

section
/-! PROOFS. What one invocation can do, read off the list `Invocation`: the parse state it goes to, the bytes it reads
(40_framing_fsm.md R77 to R79), the handlers' contract (41_payload_handlers.md R95) and what it leaves alone
(10_state.md R23). -/

namespace Sys2Proof.Machine

/-! ## The transition relation -/

/-- Settles O28: in each of the ways an invocation can go, the table names its parse state and event (R78). -/
theorem processFollowsTransitionTable : Obligations.ProcessFollowsTransitionTable := by
  intro k s
  obtain ⟨t, e, hproc, hi⟩ := process_invocation k s
  refine ⟨t, e, hproc, ?_, ?_⟩
  · cases hi with
    | completed hp => exact fun _ => hp
    | _ => exact fun h => absurd rfl h
  · cases hi with
    | noBytes hr => simp [hr]
    | start hp hrx => simp [hp, hrx, Config.startByte]
    | noise hp hrx hb => simp only [hp, hrx, if_neg (show ¬ _ = (0x7E : Byte) from hb)]
    | label hp hrx => simp [hp, hrx]
    | lengthWaits hp hrx => simp [hp, hrx]
    | lengthDropped hp hrx hlen =>
      rw [le16_toNat] at hlen
      simp [hp, hrx, Nat.not_le.2 (show 600 < _ from hlen)]
    | lengthAccepted hp hrx hlen =>
      rw [le16_toNat] at hlen
      simp [hp, hrx, show _ ≤ 600 from hlen]
    | payloadDone hp hr hd =>
      obtain ⟨b, rest, hrx⟩ := List.exists_cons_of_ne_nil hr
      simp [hp, hrx, hd]
    | discards hp hne hrx hch hsize hblock =>
      have hno : ¬ (s.label = .getWidgetParameters ∧ 2 ≤ s.length.toNat ∧ 2 ≤ s.rx.length) :=
        fun h => Nat.not_lt.2 h.2.1 (hsize h.1)
      rw [hrx] at hno
      simp only [hp, hrx, if_neg hne, if_neg hno]
    | sizeWaits hp hne hl h2 hrx => simp [hp, hrx, hne]
    | sizeTaken hp hne hl h2 hrx => simp [hp, hrx, hne, hl, h2]
    | blockWaits hp hne hl h5 h0 hr hshort =>
      obtain ⟨b, rest, hrx⟩ := List.exists_cons_of_ne_nil hr
      simp [hp, hrx, hne, hl]
    | blockTaken hp hne hl h5 h0 hrx =>
    simp [hp, hrx, hne, hl]
    | channels hp hne hl hr hm =>
      obtain ⟨b, rest, hrx⟩ := List.exists_cons_of_ne_nil hr
      simp [hp, hrx, hne, hl]
    | completed hp hrx he => simp [hp, hrx, he, Config.endByte]
    | wrongEnd hp hrx hb => simp only [hp, hrx, if_neg (show ¬ _ = (0xE7 : Byte) from hb), and_self]

/-! ## The bytes that are read -/

/-- How many bytes an invocation reads (R77; `Invocation.reads`). -/
def bytesRead (k : Nat) (s : State) : Nat :=
  match s.parse with
  | .idle | .awaitingLabel | .awaitingEnd => min 1 s.rx.length
  | .awaitingLength => if 2 ≤ s.rx.length then 2 else 0
  | .awaitingPayload =>
    if s.rx = [] ∨ s.received = s.length then 0
    else
      match s.label with
      | .getWidgetParameters => if 2 ≤ s.length.toNat then (if 2 ≤ s.rx.length then 2 else 0) else 1
      | .storeWidgetParameters =>
        if 5 ≤ s.length.toNat ∧ s.received = 0 then (if 5 ≤ s.rx.length then 5 else 0) else 1
      | .sendDmxData => burst k s
      | _ => 1

/-- A discarded byte is one byte, whatever the label. -/
theorem bytesRead_of_discards (k : Nat) {s : State} (hp : s.parse = .awaitingPayload) (hr : s.rx ≠ [])
    (hne : s.received ≠ s.length) (hd : s.Discards) : bytesRead k s = 1 := by
  obtain ⟨hch, hsize, hblock⟩ := hd
  simp only [bytesRead, hp, hr, hne, or_self, if_false]
  cases hl : s.label with
  | sendDmxData => exact absurd hl hch
  | getWidgetParameters => exact if_neg (Nat.not_le.2 (hsize hl))
  | storeWidgetParameters => exact if_neg fun h => hblock hl h.1 h.2
  | _ => rfl

/-- An invocation takes its bytes off the head of `rx`. -/
theorem Invocation.reads {k : Nat} {s t : State} {e : Event} (h : Invocation k s t e) :
    t.rx = s.rx.drop (bytesRead k s) ∧ bytesRead k s ≤ s.rx.length := by
  cases h with
  | noBytes hr => simp [bytesRead, hr]; split <;> rfl
  | start hp hrx | noise hp hrx _ | label hp hrx | completed hp hrx _ | wrongEnd hp hrx _ => simp [bytesRead, hp, hrx]
  | lengthWaits hp hrx => simp [bytesRead, hp, hrx]
  | lengthDropped hp hrx _ | lengthAccepted hp hrx _ => simp [bytesRead, hp, hrx]
  | payloadDone hp hr hd => simp [bytesRead, hp, hd]
  | discards hp hne hrx hch hsize hblock =>
    have hd : s.Discards := ⟨hch, hsize, fun hl h5 h0 => hblock hl ⟨h5, h0⟩⟩
    rw [bytesRead_of_discards k hp (by simp [hrx]) hne hd]
    simp [hrx]
  | sizeWaits hp hne hl h2 hrx | sizeTaken hp hne hl h2 hrx => simp [bytesRead, hp, hne, hl, h2, hrx]
  | blockWaits hp hne hl h5 h0 hr hshort =>
    simp [bytesRead, hp, hl, h5, h0, Nat.not_le.2 hshort]
  | blockTaken hp hne hl h5 h0 hrx =>
    simp [bytesRead, hp, hl, h5, h0, hrx, show ¬ 0#16 = s.length from fun h => hne (h0.trans h)]
  | channels hp hne hl hr hm =>
    have hread : bytesRead k s = burst k s := by simp only [bytesRead, hp, hr, hne, hl, or_self, if_false]
    rw [hread]
    exact ⟨rfl, burst_le_avail k s hr⟩

/-- Settles O29: the number is `bytesRead` (R77). -/
theorem processReadsTabledBytes : Obligations.ProcessReadsTabledBytes := by
  intro k s
  obtain ⟨t, e, hproc, hi⟩ := process_invocation k s
  obtain ⟨hrx, hle⟩ := hi.reads
  refine ⟨t, e, bytesRead k s, hproc, hrx, hle, ?_⟩
  unfold bytesRead
  cases s.parse with
  | awaitingPayload =>
    simp only
    split
    · rfl
    · cases s.label with
      | sendDmxData => exact ⟨burst_pos k s, burst_le_remaining k s⟩
      | _ => rfl
  | _ => rfl

/-! ## The handlers' contract -/

/-- The clauses of the invariant that a handler call needs. -/
theorem State.Inv.counters {s : State} (h : s.Inv) (hp : s.parse = .awaitingPayload) (hne : s.received ≠ s.length) :
    s.received.toNat < s.length.toNat ∧ (s.label = .getWidgetParameters → s.received = 0) := by
  obtain ⟨-, -, hle, -, hget⟩ := h
  exact ⟨Nat.lt_of_le_of_ne hle fun h => hne (BitVec.eq_of_toNat_eq h), fun hl => (hget hp hl).resolve_right hne⟩

/-- What a handler call that takes `n` bytes keeps to (R95). -/
structure HandlerContract (s t : State) (n : Nat) : Prop where
  within : n ≤ s.length.toNat - s.received.toNat
  counted : t.received = s.received + BitVec.ofNat 16 n
  length_eq : t.length = s.length
  label_eq : t.label = s.label
  tx_eq : t.tx = s.tx
  observed_eq : t.observed = s.observed
  idle : n = 0 → t = s
  parse_eq : s.label ≠ .getWidgetParameters → t.parse = s.parse

theorem HandlerContract.waits (s : State) : HandlerContract s s 0 :=
  ⟨Nat.zero_le _, (BitVec.add_zero _).symm, rfl, rfl, rfl, rfl, fun _ => rfl, fun _ => rfl⟩

/-- Every handler call keeps to its contract, in every state of the invariant. -/
theorem Invocation.contract {k : Nat} {s t : State} {e : Event} (h : Invocation k s t e) (hs : s.Inv)
    (hp : s.parse = .awaitingPayload) (hr : s.rx ≠ []) (hne : s.received ≠ s.length) :
    HandlerContract s t (bytesRead k s) := by
  obtain ⟨hlt, hget⟩ := hs.counters hp hne
  have hread : bytesRead k s = s.rx.length - t.rx.length := by
    obtain ⟨hrx, hle⟩ := h.reads
    rw [hrx, List.length_drop]
    omega
  cases h with
  | discards _ _ hrx hch hsize hblock =>
    rw [hread.trans (by simp only [hrx, List.length_cons]; omega : _ = 1)]
    exact ⟨by omega, rfl, rfl, rfl, rfl, rfl, nofun, fun _ => rfl⟩
  | sizeWaits _ _ _ _ _ | blockWaits _ _ _ _ _ _ _ =>
    rw [hread, Nat.sub_self]
    exact .waits s
  | sizeTaken _ _ hl h2 hrx =>
    have h0 := hget hl
    rw [hread.trans (by simp only [hrx, List.length_cons]; omega : _ = 2)]
    exact ⟨by rw [h0]; exact h2, by rw [h0]; rfl, rfl, rfl, rfl, rfl, nofun, fun hn => absurd hl hn⟩
  | blockTaken _ _ _ h5 h0 hrx =>
    rw [hread.trans (by simp only [hrx, List.length_cons]; omega : _ = 5)]
    exact ⟨by rw [h0]; exact h5, by rw [h0]; rfl, rfl, rfl, rfl, rfl, nofun, fun _ => rfl⟩
  | channels _ _ hl =>
    have hb : bytesRead k s = burst k s := by simp only [bytesRead, hp, hr, hne, hl, or_self, if_false]
    rw [hb]
    exact ⟨burst_le_remaining k s hlt, rfl, rfl, rfl, rfl, rfl,
      fun h0 => absurd (burst_pos k s) (by omega), fun _ => rfl⟩
  | noBytes hr' => exact absurd hr' hr
  | payloadDone _ _ hd => exact absurd hd hne
  | start hp' _ | noise hp' _ _ | label hp' _ | lengthWaits hp' _ | lengthDropped hp' _ _ | lengthAccepted hp' _ _
  | completed hp' _ _ | wrongEnd hp' _ _ => exact nomatch hp.symm.trans hp'

/-- Settles O30: `Invocation.contract`, with the counter as a number (R95). -/
theorem handlersKeepTheirContract : Obligations.HandlersKeepTheirContract := by
  intro k s hs hp hr hne
  obtain ⟨t, ht, hi⟩ := invocation_handler k hp hr hne
  obtain ⟨hrx, hle⟩ := hi.reads
  obtain ⟨hn, hcount, hlength, hlabel, htx, hobs, hidle, hparse⟩ := hi.contract hs hp hr hne
  obtain ⟨hlt, -⟩ := hs.counters hp hne
  have hreceived : t.received.toNat = s.received.toNat + bytesRead k s := by
    rw [hcount]
    exact received_add (by omega)
  exact ⟨t, bytesRead k s, ht, hrx, hle, hn, hreceived, by rw [hreceived, hlength]; omega, hlength, hlabel, hidle, htx,
    hobs, hparse⟩

/-! ## Progress -/

theorem not_waiting_of_discards {s : State} (hp : s.parse = .awaitingPayload) (hd : s.Discards) :
    s.waiting = false := by
  obtain ⟨-, hsize, hblock⟩ := hd
  simp only [State.waiting_eq, hp]
  cases hl : s.label with
  | getWidgetParameters => simp [Nat.not_le.2 (hsize hl)]
  | storeWidgetParameters =>
    by_cases h5 : 5 ≤ s.length.toNat
    · simp only [beq_eq_false_iff_ne.2 (hblock hl h5), Bool.and_false, Bool.false_and]
    · simp [h5]
  | _ => rfl

/-- What an invocation that does not wait does to the bytes that wait: it takes some, or none of a used-up payload. -/
def Progress (s t : State) : Prop :=
  t.rx.length < s.rx.length ∨ (t.rx = s.rx ∧ s.parse = .awaitingPayload ∧ t.parse = .awaitingEnd)

/-- With bytes waiting an invocation is a no-op in a waiting condition and makes progress otherwise (R79). -/
theorem Invocation.waits_or_progresses {k : Nat} {s t : State} {e : Event} (h : Invocation k s t e) (hr : s.rx ≠ []) :
    (s.waiting = true ∧ t = s ∧ e = .none) ∨ (s.waiting = false ∧ Progress s t) := by
  cases h with
  | noBytes hr' => exact absurd hr' hr
  | start hp hrx | noise hp hrx _ | label hp hrx | completed hp hrx _ | wrongEnd hp hrx _ =>
    exact .inr ⟨by simp [State.waiting_eq, hp], .inl (by simp [hrx])⟩
  | lengthWaits hp hrx => exact .inl ⟨by simp [State.waiting_eq, hp, hrx], rfl, rfl⟩
  | lengthDropped hp hrx _ | lengthAccepted hp hrx _ =>
    exact .inr ⟨by simp [State.waiting_eq, hp, hrx], .inl (by simp only [hrx, List.length_cons]; omega)⟩
  | payloadDone hp _ hd =>
    refine .inr ⟨?_, .inr ⟨rfl, hp, rfl⟩⟩
    simp only [State.waiting_eq, hp]
    cases s.label with
    | getWidgetParameters => simp [hd]
    | storeWidgetParameters =>
      by_cases h5 : 5 ≤ s.length.toNat
      · have h0 : s.received ≠ 0 := fun h => by simp [← hd, h] at h5
        simp only [beq_eq_false_iff_ne.2 h0, Bool.and_false, Bool.false_and]
      · simp [h5]
    | _ => rfl
  | discards hp _ hrx hch hsize hblock =>
    exact .inr ⟨not_waiting_of_discards hp ⟨hch, hsize, fun hl h5 h0 => hblock hl ⟨h5, h0⟩⟩,
      .inl (by simp [hrx])⟩
  | sizeWaits hp hne hl h2 hrx => exact .inl ⟨by simp [State.waiting_eq, hp, hl, hne, h2, hrx], rfl, rfl⟩
  | sizeTaken hp _ hl _ hrx =>
    exact .inr ⟨by simp [State.waiting_eq, hp, hl, hrx], .inl (by simp only [hrx, List.length_cons]; omega)⟩
  | blockWaits hp _ hl h5 h0 hr hshort =>
    have hpos : 1 ≤ s.rx.length := List.length_pos_of_ne_nil hr
    exact .inl ⟨by simp [State.waiting_eq, hp, hl, h5, h0, hshort, hpos], rfl, rfl⟩
  | blockTaken hp _ hl _ _ hrx =>
    exact .inr ⟨by simp [State.waiting_eq, hp, hl, hrx], .inl (by simp only [hrx, List.length_cons]; omega)⟩
  | channels hp _ hl hr _ =>
    have hpos := List.length_pos_of_ne_nil hr
    have hb := burst_pos k s
    refine .inr ⟨by simp [State.waiting_eq, hp, hl], .inl ?_⟩
    simp only [List.length_drop]
    omega

/-- Settles O31: `Invocation.waits_or_progresses` (R79). -/
theorem processProgressesUnlessWaiting : Obligations.ProcessProgressesUnlessWaiting := by
  intro k s hr
  obtain ⟨t, e, hproc, hi⟩ := process_invocation k s
  refine ⟨t, e, hproc, ?_⟩
  rcases hi.waits_or_progresses hr with ⟨hw, ht, he⟩ | ⟨hw, hprog⟩
  · rw [if_pos hw]
    exact ⟨ht, he⟩
  · rw [if_neg (by simp [hw])]
    exact hprog

end Sys2Proof.Machine
end

section
/-! PROOFS. What an invocation leaves alone and does not look at (10_state.md R23, 20_memory.md R45, 43_encoder.md
R136). -/

namespace Sys2Proof.Machine

/-- Only the completion of one of the two requests has a reply (R110). -/
theorem request_of_reply {l : Label} {s : State} (h : s.tx ++ replyBytes l s ≠ s.tx) :
    l = .getWidgetParameters ∨ l = .getWidgetSerial := by
  by_contra hl
  obtain ⟨hget, hser⟩ := not_or.1 hl
  exact h (by rw [replyBytes_of_silent hget hser, List.append_nil])

/-- Settles O53: each way an invocation can go changes what is listed and nothing else. -/
theorem processChangesOnlyWhatLabelAllows : Obligations.ProcessChangesOnlyWhatLabelAllows := by
  intro k s
  obtain ⟨t, e, hproc, hi⟩ := process_invocation k s
  refine ⟨t, e, hproc, ?_⟩
  cases hi with
  | label hp | lengthAccepted hp => simp [hp]
  | sizeTaken hp _ hl | blockTaken hp _ hl | channels hp _ hl => simp [hp, hl]
  | completed hp hrx _ =>
    have hreply : s.tx ++ replyBytes s.label s ≠ s.tx → s.parse = .awaitingEnd ∧ s.rx.head? = some 0xE7 ∧
        (s.label = .getWidgetParameters ∨ s.label = .getWidgetSerial) :=
      fun h => ⟨hp, congrArg List.head? hrx, request_of_reply h⟩
    simpa using hreply
  | _ => simp

/-! ## Decoding does not look at stored values -/

/-- The state `u` at the place of the inbound bytes where `s` stands. -/
def State.atPlaceOf (u s : State) : State :=
  { u with parse := s.parse, label := s.label, length := s.length, received := s.received, rx := s.rx }

theorem State.sameDecoding.eq_atPlaceOf {s u : State} (h : s.sameDecoding u) : u = u.atPlaceOf s := by
  obtain ⟨hp, hl, hn, hr, hrx⟩ := h
  rw [State.atPlaceOf, hp, hl, hn, hr, hrx]

/-- An invocation that is no burst goes the same way from every state at the same place. -/
theorem Invocation.atPlaceOf {k : Nat} {s t : State} {e : Event} (h : Invocation k s t e) (hn : ¬ s.TakesBurst)
    (u : State) : ∃ v, Invocation k (u.atPlaceOf s) v e ∧ t.sameDecoding v := by
  cases h with
  | noBytes hr => exact ⟨_, .noBytes hr, rfl, rfl, rfl, rfl, rfl⟩
  | start hp hrx => exact ⟨_, .start hp hrx, rfl, rfl, rfl, rfl, rfl⟩
  | noise hp hrx hb => exact ⟨_, .noise hp hrx hb, rfl, rfl, rfl, rfl, rfl⟩
  | label hp hrx => exact ⟨_, .label hp hrx, rfl, rfl, rfl, rfl, rfl⟩
  | lengthWaits hp hrx => exact ⟨_, .lengthWaits hp hrx, rfl, rfl, rfl, rfl, rfl⟩
  | lengthDropped hp hrx hlen => exact ⟨_, .lengthDropped hp hrx hlen, rfl, rfl, rfl, rfl, rfl⟩
  | lengthAccepted hp hrx hlen => exact ⟨_, .lengthAccepted hp hrx hlen, rfl, rfl, rfl, rfl, rfl⟩
  | payloadDone hp hr hd => exact ⟨_, .payloadDone hp hr hd, rfl, rfl, rfl, rfl, rfl⟩
  | discards hp hne hrx hch hsize hblock =>
    exact ⟨_, .discards hp hne hrx hch hsize hblock, rfl, rfl, rfl, rfl, rfl⟩
  | sizeWaits hp hne hl h2 hrx => exact ⟨_, .sizeWaits hp hne hl h2 hrx, rfl, rfl, rfl, rfl, rfl⟩
  | sizeTaken hp hne hl h2 hrx => exact ⟨_, .sizeTaken hp hne hl h2 hrx, rfl, rfl, rfl, rfl, rfl⟩
  | blockWaits hp hne hl h5 h0 hr hshort =>
    exact ⟨_, .blockWaits hp hne hl h5 h0 hr hshort, rfl, rfl, rfl, rfl, rfl⟩
  | blockTaken hp hne hl h5 h0 hrx => exact ⟨_, .blockTaken hp hne hl h5 h0 hrx, rfl, rfl, rfl, rfl, rfl⟩
  | channels hp hne hl hr _ => exact absurd ⟨hp, hr, hne, hl⟩ hn
  | completed hp hrx he => exact ⟨_, .completed hp hrx he, rfl, rfl, rfl, rfl, rfl⟩
  | wrongEnd hp hrx hb => exact ⟨_, .wrongEnd hp hrx hb, rfl, rfl, rfl, rfl, rfl⟩

/-- Settles O55: a burst has the same length from both states, and every other invocation goes the same way. -/
theorem decodingIgnoresStoredValues : Obligations.DecodingIgnoresStoredValues := by
  intro k s u hsame
  rw [hsame.eq_atPlaceOf]
  by_cases hb : s.TakesBurst
  · obtain ⟨hp, hr, hne, hl⟩ := hb
    exact ⟨_, _, _, process_burst k ⟨hp, hr, hne, hl⟩, process_burst k (s := u.atPlaceOf s) ⟨hp, hr, hne, hl⟩,
      rfl, rfl, rfl, rfl, rfl⟩
  · obtain ⟨t, e, hproc, hi⟩ := process_invocation k s
    obtain ⟨v, hv, hsame'⟩ := hi.atPlaceOf hb u
    have hbu : ¬ (u.atPlaceOf s).TakesBurst := fun ⟨hp, hr, hne, hl⟩ => hb ⟨hp, hr, hne, hl⟩
    exact ⟨t, v, e, hproc, process_of_invocation hv hbu k, hsame'⟩

/-! ## An upload does not disturb the decoding -/

/-- An invocation that writes nothing, from a state with other bytes on `tx`. -/
theorem silent_on_tx {k : Nat} {s t : State} {e : Event} (htx : t.tx = s.tx)
    (h : ∀ x, Invocation k { s with tx := x } { t with tx := x } e) :
    ∃ out, t.tx = s.tx ++ out ∧ ∀ x, Invocation k { s with tx := x } { t with tx := x ++ out } e :=
  ⟨[], by rw [htx, List.append_nil], fun x => by rw [List.append_nil]; exact h x⟩

/-- An invocation that is no burst does not look at `tx`, and what it writes follows whatever is there. -/
theorem Invocation.with_tx {k : Nat} {s t : State} {e : Event} (h : Invocation k s t e) (hn : ¬ s.TakesBurst) :
    ∃ out, t.tx = s.tx ++ out ∧ ∀ x, Invocation k { s with tx := x } { t with tx := x ++ out } e := by
  cases h with
  | noBytes hr => exact silent_on_tx rfl fun _ => .noBytes hr
  | start hp hrx => exact silent_on_tx rfl fun _ => .start hp hrx
  | noise hp hrx hb => exact silent_on_tx rfl fun _ => .noise hp hrx hb
  | label hp hrx => exact silent_on_tx rfl fun _ => .label hp hrx
  | lengthWaits hp hrx => exact silent_on_tx rfl fun _ => .lengthWaits hp hrx
  | lengthDropped hp hrx hlen => exact silent_on_tx rfl fun _ => .lengthDropped hp hrx hlen
  | lengthAccepted hp hrx hlen => exact silent_on_tx rfl fun _ => .lengthAccepted hp hrx hlen
  | payloadDone hp hr hd => exact silent_on_tx rfl fun _ => .payloadDone hp hr hd
  | discards hp hne hrx hch hsize hblock =>
    exact silent_on_tx rfl fun _ => .discards hp hne hrx hch hsize hblock
  | sizeWaits hp hne hl h2 hrx => exact silent_on_tx rfl fun _ => .sizeWaits hp hne hl h2 hrx
  | sizeTaken hp hne hl h2 hrx => exact silent_on_tx rfl fun _ => .sizeTaken hp hne hl h2 hrx
  | blockWaits hp hne hl h5 h0 hr hshort =>
    exact silent_on_tx rfl fun _ => .blockWaits hp hne hl h5 h0 hr hshort
  | blockTaken hp hne hl h5 h0 hrx => exact silent_on_tx rfl fun _ => .blockTaken hp hne hl h5 h0 hrx
  | channels hp hne hl hr _ => exact absurd ⟨hp, hr, hne, hl⟩ hn
  | completed hp hrx he =>
    refine ⟨replyBytes s.label s, rfl, fun x => ?_⟩
    have hreply : replyBytes s.label s = replyBytes s.label { s with tx := x } :=
      replyBytes_congr s.label rfl rfl rfl rfl rfl
    rw [hreply]
    exact .completed hp hrx he
  | wrongEnd hp hrx hb => exact silent_on_tx rfl fun _ => .wrongEnd hp hrx hb

theorem afterBurst_with_tx (s : State) (n : Nat) (x : List Byte) :
    ({ s with tx := x } : State).afterBurst n = { s.afterBurst n with tx := x } := by
  have hchan : (dmxWrite s.received.toNat (s.rx.take n) { s with tx := x }).chan = (s.afterBurst n).chan :=
    chan_dmxWrite_congr _ _ rfl rfl
  rw [State.afterBurst, hchan]
  rfl

/-- What an invocation does with other bytes on `tx`. -/
theorem process_with_tx {k : Nat} {s t : State} {e : Event} (h : process k s = .next (t, e)) :
    ∃ out, t.tx = s.tx ++ out ∧
      ∀ x, process k { s with tx := x } = .next ({ t with tx := x ++ out }, e) := by
  by_cases hb : s.TakesBurst
  · obtain ⟨hp, hr, hne, hl⟩ := hb
    rw [process_burst k ⟨hp, hr, hne, hl⟩] at h
    cases h
    refine ⟨[], (List.append_nil _).symm, fun x => ?_⟩
    rw [process_burst k (s := { s with tx := x }) ⟨hp, hr, hne, hl⟩, afterBurst_with_tx, List.append_nil]
    rfl
  · obtain ⟨out, htx, hx⟩ := (invocation_of_process h).with_tx hb
    exact ⟨out, htx, fun x => process_of_invocation (hx x) (fun ⟨hp, hr, hne, hl⟩ => hb ⟨hp, hr, hne, hl⟩) k⟩

/-- Settles O56: an upload writes `tx` alone, which an invocation does not look at (R135, R136). -/
theorem uploadDoesNotDisturbDecoding : Obligations.UploadDoesNotDisturbDecoding := by
  intro k s t e valid data h
  obtain ⟨out, htx, hx⟩ := process_with_tx h
  rw [uploadDmx_eq]
  exact ⟨out, htx, hx _⟩

end Sys2Proof.Machine
end

section
/-! PROOFS. The whole machine: a step is one of the moves, a run of an instruction is a run of invocations, and what
every step keeps (00_scope.md R8, 10_state.md R15 and R23, 20_memory.md R32 to R45, 60_exceptions.md R165). -/

namespace Sys2Proof.Machine

/-! ## The moves, one by one -/

theorem step_nil {s : State} (h : s.inputs = []) : step s = invoke s := by
  simp only [step, h]

theorem step_cons {s : State} {x : Input} {xs : List Input} (h : s.inputs = x :: xs) :
    step s = perform x { s with inputs := xs } := by
  simp only [step, h]

theorem fetch_eq_some {s : State} {i : Instr} : fetch s = some i ↔ ∃ rest, decodeAt s.parse s.rx = .ok (i, rest) := by
  unfold fetch
  cases decodeAt s.parse s.rx with
  | ok r => simp [Prod.ext_iff]
  | error _ => simp

theorem runInstr_of_fetch {s : State} {i : Instr} (h : fetch s = some i) : runInstr s = exec i s := by
  simp only [runInstr, h]

/-- Settles O1: the decoded instruction is what is fetched. -/
theorem stepRunsDecodedInstruction : Obligations.StepRunsDecodedInstruction := by
  intro s i rest xs hx hd
  rw [step_cons hx]
  exact runInstr_of_fetch (fetch_eq_some.2 ⟨rest, hd⟩)

/-- Settles O2: what is fetched from the placed word's bytes is what the decoder reads from the word. -/
theorem placedTableWordIsRun : Obligations.PlacedTableWordIsRun := by
  intro s nbits w i hw
  have hfetch : fetch { s.withFetchWord nbits w with inputs := s.inputs } = decodeTableWord nbits w := rfl
  rw [step_cons (x := .runInstr) (xs := s.inputs) rfl]
  exact runInstr_of_fetch (hfetch.trans hw)

/-- Settles O3: the moves that poll and upload. -/
theorem stepPollsAndUploads : Obligations.StepPollsAndUploads :=
  fun _ _ => ⟨fun h => step_nil h, fun h => step_cons h, fun _ _ h => step_cons h⟩

/-- Settles O4: the two moves of the environment (R37). -/
theorem environmentMovesOnlyStreams : Obligations.EnvironmentMovesOnlyStreams :=
  fun _ _ _ _ => ⟨fun h => step_cons h, fun h => step_cons h⟩

/-- Settles O5: the fields of a constructed state (R180). -/
theorem constructGivesResetValues : Obligations.ConstructGivesResetValues :=
  fun _ _ _ _ h => ⟨_, step_cons h, rfl, rfl, rfl, rfl, rfl, rfl, rfl, rfl, rfl, rfl, rfl, fun _ => rfl, rfl, rfl, rfl,
    rfl, rfl⟩

/-- Settles O6: the fields of the reset state (R24). -/
theorem resetStateValues : Obligations.ResetStateValues :=
  ⟨rfl, rfl, rfl, rfl, fun _ => rfl, rfl, rfl, rfl, rfl, rfl⟩

theorem chanRead1_of_mem {c : Nat} {s : State} (h : 1 ≤ c ∧ c ≤ s.capacity) :
    chanRead1 c s = .next (s.chan.read (c - 1)) := if_pos h

theorem chanRead1_of_not_mem {c : Nat} {s : State} (h : ¬ (1 ≤ c ∧ c ≤ s.capacity)) :
    chanRead1 c s = .fault (.readOutOfRange c) := if_neg h

/-- `ReadChannel(c)` inside 1..N (R151). -/
theorem readChannel_of_mem {c : Nat} {s : State} (h : 1 ≤ c ∧ c ≤ s.capacity) :
    readChannel c s = .next (report (.channel c (s.chan.read (c - 1))) s) := by
  rw [readChannel, chanRead1_of_mem h, andThen_next]

/-- `ReadChannel(c)` outside 1..N (R151, R165). -/
theorem readChannel_of_not_mem {c : Nat} {s : State} (h : ¬ (1 ≤ c ∧ c ≤ s.capacity)) :
    readChannel c s = .fault (.readOutOfRange c) := by
  rw [readChannel, chanRead1_of_not_mem h]
  rfl

/-- Settles O7: the accessor inside its range and outside it (R151). -/
theorem readChannelInRangeOrFault : Obligations.ReadChannelInRangeOrFault :=
  fun s xs _ hx => ⟨fun h => (step_cons hx).trans (readChannel_of_mem (s := { s with inputs := xs }) h),
    fun h => (step_cons hx).trans (readChannel_of_not_mem (s := { s with inputs := xs }) (by simp only; omega))⟩

/-- Settles O8: the accessor's tuple goes to the caller's record (R152). -/
theorem getParametersReturnsSnapshot : Obligations.GetParametersReturnsSnapshot :=
  fun _ _ hx => step_cons hx

/-! ## Runs of invocations -/

theorem invocation_of_poll {k : Nat} {s u : State} (h : poll k s = .next u) :
    ∃ t e, Invocation k s t e ∧ u = reportEvent e t := by
  obtain ⟨⟨t, e⟩, hproc, hu⟩ := andThen_eq_next h
  cases hu
  exact ⟨t, e, invocation_of_process hproc, rfl⟩

theorem polls_cons_eq_next {k : Nat} {ks : List Nat} {s t : State} (h : polls (k :: ks) s = .next t) :
    ∃ u, poll k s = .next u ∧ polls ks u = .next t := andThen_eq_next h

theorem polls_singleton (k : Nat) (s : State) : polls [k] s = poll k s := by
  obtain ⟨t, ht⟩ := poll_answers k s
  rw [polls, ht]
  rfl

/-- Whatever every invocation keeps, a run of invocations keeps. -/
theorem polls_keep {P : State → Prop}
    (hP : ∀ {k : Nat} {s t : State} {e : Event}, Invocation k s t e → P s → P (reportEvent e t))
    {ks : List Nat} {s t : State} (h : polls ks s = .next t) (hs : P s) : P t := by
  induction ks generalizing s with
  | nil =>
    cases h
    exact hs
  | cons k ks ih =>
    obtain ⟨u, hpoll, hrest⟩ := polls_cons_eq_next h
    obtain ⟨v, e, hi, rfl⟩ := invocation_of_poll hpoll
    exact ih hrest (hP hi hs)

theorem polls_answer (ks : List Nat) (s : State) : ∃ t, polls ks s = .next t := by
  induction ks generalizing s with
  | nil => exact ⟨s, rfl⟩
  | cons k ks ih =>
    obtain ⟨u, hu⟩ := poll_answers k s
    obtain ⟨t, ht⟩ := ih u
    exact ⟨t, by rw [polls, hu, andThen_next, ht]⟩

theorem invoke_eq_polls (s : State) :
    invoke s = polls [Config.dmxBurst s.choices] { s with choices := s.choices + 1 } :=
  (polls_singleton _ _).symm

/-- A run of an instruction is a run of invocations, whatever is fetched (R82; log 2). -/
theorem runInstr_eq_polls (s : State) : ∃ ks n, runInstr s = polls ks { s with choices := n } := by
  cases hf : fetch s with
  | none => exact ⟨_, _, by simp only [runInstr, hf]; exact invoke_eq_polls s⟩
  | some i =>
    rw [runInstr_of_fetch hf]
    obtain ⟨rest, hd⟩ := fetch_eq_some.1 hf
    rcases of_decodeAt hd with ⟨hp, hframe⟩ | ⟨hp, rfl, hrx⟩ | ⟨hp, rfl, hrx⟩
    · obtain ⟨hi, hw, hrx⟩ := decodedFrameIsItsBytes _ _ _ hframe
      obtain ⟨n, t, -, hpolls, hexec⟩ := frameMeaningIsItsInvocations i s rest (fun _ => 0) hi hw ⟨hp, hrx⟩
      exact ⟨_, s.choices, hexec.trans hpolls.symm⟩
    · exact ⟨[0], s.choices, (execStart_idle hp hrx).trans ((polls_singleton 0 s).trans (poll_start 0 hp hrx)).symm⟩
    · exact ⟨[0], s.choices,
        (execEndDelim_awaitingEnd hp hrx).trans ((polls_singleton 0 s).trans (poll_endDelim 0 hp hrx)).symm⟩

/-! ## What a step can be -/

/-- The next move lets the block run: the caller polls or runs an instruction. -/
def State.Polls (s : State) : Prop :=
  s.inputs = [] ∨ ∃ x xs, s.inputs = x :: xs ∧ (x = .process ∨ x = .runInstr)

/-- The other moves that answer, each with what it answers. -/
inductive OtherMove (s : State) : Input → State → Prop
  | construct (n : Nat) (serial : Serial) : OtherMove s (.construct n serial) (construct n serial s)
  | uploadDmx (valid : Bool) (data : List Byte) : OtherMove s (.uploadDmx valid data) (uploadDmx valid data s)
  | readChannel (c : Nat) : 1 ≤ c ∧ c ≤ s.capacity →
      OtherMove s (.readChannel c) (report (.channel c (s.chan.read (c - 1))) s)
  | getParameters : OtherMove s .getParameters (getParameters s)
  | hostSends (bytes : List Byte) : OtherMove s (.hostSends bytes) (hostSends bytes s)
  | hostTakes (n : Nat) : OtherMove s (.hostTakes n) (hostTakes n s)

/-- Where the caller polls or runs an instruction, a step is a run of invocations. -/
theorem step_of_polls {s : State} (h : s.Polls) :
    ∃ ks n, step s = polls ks { s with inputs := s.inputs.tail, choices := n } := by
  rcases h with h | ⟨x, xs, hx, rfl | rfl⟩
  · have htail : s.inputs.tail = s.inputs := by rw [h, List.tail_nil]
    rw [htail]
    exact ⟨_, _, (step_nil h).trans (invoke_eq_polls s)⟩
  · exact ⟨_, _, by rw [step_cons hx, hx]; exact invoke_eq_polls { s with inputs := xs }⟩
  · obtain ⟨ks, n, hrun⟩ := runInstr_eq_polls { s with inputs := xs }
    exact ⟨ks, n, by rw [step_cons hx, hx]; exact hrun⟩

/-- Every step that answers is a run of invocations or one of the other moves. -/
theorem step_cases {s t : State} (h : step s = .next t) :
    (s.Polls ∧ ∃ ks n, polls ks { s with inputs := s.inputs.tail, choices := n } = .next t) ∨
      ∃ x xs, s.inputs = x :: xs ∧ OtherMove { s with inputs := xs } x t := by
  by_cases hpolls : s.Polls
  · obtain ⟨ks, n, hstep⟩ := step_of_polls hpolls
    exact .inl ⟨hpolls, ks, n, hstep.symm.trans h⟩
  · refine .inr ?_
    cases hx : s.inputs with
    | nil => exact absurd (.inl hx) hpolls
    | cons x xs =>
      refine ⟨x, xs, rfl, ?_⟩
      rw [step_cons hx] at h
      cases x with
      | process => exact absurd (.inr ⟨_, _, hx, .inl rfl⟩) hpolls
      | runInstr => exact absurd (.inr ⟨_, _, hx, .inr rfl⟩) hpolls
      | readChannel c =>
        obtain ⟨v, hread, hv⟩ := andThen_eq_next h
        by_cases hc : 1 ≤ c ∧ c ≤ s.capacity
        · rw [chanRead1_of_mem (s := { s with inputs := xs }) hc] at hread
          cases hread
          cases hv
          exact .readChannel c hc
        · rw [chanRead1_of_not_mem (s := { s with inputs := xs }) hc] at hread
          exact nomatch hread
      | construct n serial =>
        cases h
        exact .construct n serial
      | uploadDmx valid data =>
        cases h
        exact .uploadDmx valid data
      | getParameters =>
        cases h
        exact .getParameters
      | hostSends bytes =>
        cases h
        exact .hostSends bytes
      | hostTakes n =>
        cases h
        exact .hostTakes n

/-! ## Faults -/

/-- Every step answers but an out-of-range read. -/
theorem step_answers_or_reads (s : State) :
    (∃ t, step s = .next t) ∨
      ∃ c xs, s.inputs = .readChannel c :: xs ∧ ¬ (1 ≤ c ∧ c ≤ s.capacity) ∧ step s = .fault (.readOutOfRange c) := by
  by_cases hpolls : s.Polls
  · obtain ⟨ks, n, hstep⟩ := step_of_polls hpolls
    rw [hstep]
    exact .inl (polls_answer _ _)
  · cases hx : s.inputs with
    | nil => exact absurd (.inl hx) hpolls
    | cons x xs =>
      rw [step_cons hx]
      cases x with
      | process => exact absurd (.inr ⟨_, _, hx, .inl rfl⟩) hpolls
      | runInstr => exact absurd (.inr ⟨_, _, hx, .inr rfl⟩) hpolls
      | readChannel c =>
        by_cases hc : 1 ≤ c ∧ c ≤ s.capacity
        · exact .inl ⟨_, readChannel_of_mem (s := { s with inputs := xs }) hc⟩
        · exact .inr ⟨c, xs, rfl, hc, readChannel_of_not_mem (s := { s with inputs := xs }) hc⟩
      | _ => exact .inl ⟨_, rfl⟩

/-- Settles O9: every other step answers a next state (R165). -/
theorem onlyOutOfRangeReadFaults : Obligations.OnlyOutOfRangeReadFaults := by
  intro s
  rcases step_answers_or_reads s with ⟨t, ht⟩ | ⟨c, xs, hx, hc, hfault⟩
  · refine ⟨fun r => ⟨fun h => ?_, ?_⟩, fun r h => ?_⟩
    · exact nomatch ht.symm.trans h
    · rintro ⟨c, xs, hx, hc, rfl⟩
      exact (readChannelInRangeOrFault s xs c hx).2 hc
    · exact nomatch ht.symm.trans h
  · refine ⟨fun r => ⟨fun h => ?_, ?_⟩, fun r h => ?_⟩
    · cases hfault.symm.trans h
      exact ⟨c, xs, hx, by omega, rfl⟩
    · rintro ⟨c, xs, hx, hc, rfl⟩
      exact (readChannelInRangeOrFault s xs c hx).2 hc
    · exact nomatch hfault.symm.trans h

end Sys2Proof.Machine
end

section
/-! PROOFS. What every step keeps: the invariant (10_state.md R15, R19), the channels no frame reaches (20_memory.md
R32), and which moves can change what (10_state.md R23, 20_memory.md R35 to R43). -/

namespace Sys2Proof.Machine

/-! ## The invariant -/

theorem dmxWrite_wf (r : Nat) (p : List Byte) {s : State} (h : s.chan.wf = true) :
    (dmxWrite r p s).chan.wf = true := by
  unfold dmxWrite
  split
  · exact writeChannels_wf _ _ _ h
  · exact writeChannels_wf _ _ _ h

theorem dmxWrite_below (r : Nat) (p : List Byte) {s : State} (h : s.chan.below s.capacity = true) :
    (dmxWrite r p s).chan.below s.capacity = true := by
  unfold dmxWrite
  split
  · exact writeChannels_below _ _ _ h
  · exact writeChannels_below _ _ _ h

/-- A burst in a state of the invariant does not make the counter wrap. -/
theorem received_add_burst {k : Nat} {s : State} (hlt : s.received.toNat < s.length.toNat) :
    (s.received + BitVec.ofNat 16 (burst k s)).toNat = s.received.toNat + burst k s ∧
      s.received.toNat + burst k s ≤ s.length.toNat := by
  have hb := burst_le_remaining k s hlt
  exact ⟨received_add (by omega), by omega⟩

/-- The channels a send_dmx_data invocation leaves, in a state of the invariant. -/
theorem eq_chan_afterBurst {k : Nat} {s : State} {m : Memory} (hlt : s.received.toNat < s.length.toNat)
    (hm : s.received.toNat + burst k s < 65536 →
      m = (dmxWrite s.received.toNat (s.rx.take (burst k s)) s).chan) : m = (s.afterBurst (burst k s)).chan := by
  have hb := (received_add_burst (k := k) hlt).2
  have hl := s.length.isLt
  exact hm (by omega)

/-- An invocation keeps the invariant. -/
theorem Invocation.inv {k : Nat} {s t : State} {e : Event} (h : Invocation k s t e) (hs : s.Inv) : t.Inv := by
  have ⟨hwf, hbelow, hle, hmax, hget⟩ := hs
  cases h with
  | noBytes | lengthWaits | sizeWaits | blockWaits => exact hs
  | start hp | noise hp | label hp | lengthDropped hp | payloadDone hp | completed hp | wrongEnd hp =>
    exact ⟨hwf, hbelow, hle, hmax, by simp [hp]⟩
  | lengthAccepted _ _ hlen => exact ⟨hwf, hbelow, Nat.zero_le _, hlen, fun _ _ => .inl rfl⟩
  | discards hp hne hrx _ hsize _ =>
    obtain ⟨hlt, h0⟩ := hs.counters hp hne
    have hcount := received_succ hlt
    refine ⟨hwf, hbelow, ?_, hmax, fun _ hl => .inr (BitVec.eq_of_toNat_eq ?_)⟩
    · simp only [hcount]
      omega
    · have hshort := hsize hl
      simp only [hcount]
      omega
  | sizeTaken hp hne hl h2 hrx => exact ⟨hwf, hbelow, h2, hmax, by simp⟩
  | blockTaken hp hne hl h5 h0 hrx => exact ⟨hwf, hbelow, h5, hmax, by simp [hl]⟩
  | channels hp hne hl hr hm =>
    obtain ⟨hlt, -⟩ := hs.counters hp hne
    obtain ⟨hcount, hroom⟩ := received_add_burst (k := k) hlt
    obtain rfl := eq_chan_afterBurst hlt hm
    refine ⟨dmxWrite_wf _ _ hwf, dmxWrite_below _ _ hbelow, ?_, hmax, by simp [hl]⟩
    simp only [hcount]
    exact hroom

/-- The caller's record is no part of the invariant. -/
theorem inv_reportEvent {e : Event} {s : State} (h : s.Inv) : (reportEvent e s).Inv := by
  rw [reportEvent_eq]
  exact h

/-- A run of invocations keeps the invariant. -/
theorem polls_inv {ks : List Nat} {s t : State} (h : polls ks s = .next t) (hs : s.Inv) : t.Inv :=
  polls_keep (fun hi hs => inv_reportEvent (hi.inv hs)) h hs

/-- Settles O51: both counters are 0 and the buffer is empty (R24). -/
theorem resetHasInvariant : Obligations.ResetHasInvariant :=
  ⟨rfl, rfl, Nat.le_refl _, Nat.zero_le _, fun h => nomatch h⟩

/-- Settles O50: a run of invocations keeps the invariant, `Construct` restores it, and no other move touches what it
speaks of. -/
theorem stepKeepsInvariant : Obligations.StepKeepsInvariant := by
  intro s t hs h
  rcases step_cases h with ⟨-, ks, n, hpolls⟩ | ⟨x, xs, -, hmove⟩
  · exact polls_inv hpolls hs
  · cases hmove with
    | construct n serial => exact ⟨rfl, rfl, Nat.le_refl _, Nat.zero_le _, fun h => nomatch h⟩
    | uploadDmx valid data =>
      rw [uploadDmx_eq]
      exact hs
    | readChannel | getParameters | hostSends | hostTakes => exact hs

/-! ## Channels beyond the wire -/

/-- No payload byte belongs to a channel index of 599 or above (R32). -/
theorem Invocation.beyondWire {k : Nat} {s t : State} {e : Event} (h : Invocation k s t e) (hs : s.Inv) {i : Nat}
    (hi : 599 ≤ i) : t.chan.read i = s.chan.read i := by
  cases h with
  | channels hp hne hl hr hm =>
    obtain ⟨hlt, -⟩ := hs.counters hp hne
    obtain ⟨-, hroom⟩ := received_add_burst (k := k) hlt
    obtain ⟨hwf, -, -, hmax, -⟩ := hs
    replace hmax : s.length.toNat ≤ 600 := hmax
    obtain rfl := eq_chan_afterBurst hlt hm
    exact (afterBurst_read hwf (burst_le_avail k s hr) i).trans (if_neg (by omega))
  | _ => rfl

/-- Settles O52: an invocation leaves those channels alone, and `Construct` clears them (R32). -/
theorem channelsBeyondWireStayZero : Obligations.ChannelsBeyondWireStayZero := by
  intro s t hs hzero h
  rcases step_cases h with ⟨-, ks, n, hpolls⟩ | ⟨x, xs, -, hmove⟩
  · refine (polls_keep (P := fun u => u.Inv ∧ ∀ i, 599 ≤ i → u.chan.read i = 0) ?_ hpolls ⟨hs, hzero⟩).2
    rintro k u v e hi ⟨hu, hz⟩
    refine ⟨inv_reportEvent (hi.inv hu), fun i hge => ?_⟩
    rw [reportEvent_eq]
    exact (hi.beyondWire hu hge).trans (hz i hge)
  · cases hmove with
    | construct n serial => exact fun _ _ => rfl
    | uploadDmx valid data =>
      rw [uploadDmx_eq]
      exact hzero
    | readChannel | getParameters | hostSends | hostTakes => exact hzero

/-! ## Which moves can change what -/

/-- What a run of invocations from `s` to `t` leaves alone or only adds to, whatever it does to the registers. -/
structure RunKeeps (s t : State) : Prop where
  serial_eq : t.serial = s.serial
  capacity_eq : t.capacity = s.capacity
  inputs_eq : t.inputs = s.inputs
  tx_grows : ∃ out, t.tx = s.tx ++ out
  observed_grows : ∃ o, t.observed = s.observed ++ o
  rx_taken : ∃ taken, s.rx = taken ++ t.rx

theorem RunKeeps.refl (s : State) : RunKeeps s s :=
  ⟨rfl, rfl, rfl, ⟨[], (List.append_nil _).symm⟩, ⟨[], (List.append_nil _).symm⟩, ⟨[], rfl⟩⟩

theorem RunKeeps.trans {s t u : State} (h : RunKeeps s t) (h' : RunKeeps t u) : RunKeeps s u := by
  obtain ⟨hserial, hcap, hin, ⟨out, htx⟩, ⟨o, hobs⟩, ⟨taken, hrx⟩⟩ := h
  obtain ⟨hserial', hcap', hin', ⟨out', htx'⟩, ⟨o', hobs'⟩, ⟨taken', hrx'⟩⟩ := h'
  exact ⟨hserial'.trans hserial, hcap'.trans hcap, hin'.trans hin,
    ⟨out ++ out', by rw [htx', htx, List.append_assoc]⟩, ⟨o ++ o', by rw [hobs', hobs, List.append_assoc]⟩,
    ⟨taken ++ taken', by rw [hrx, hrx', List.append_assoc]⟩⟩

theorem Invocation.runKeeps {k : Nat} {s t : State} {e : Event} (h : Invocation k s t e) :
    RunKeeps s (reportEvent e t) := by
  have hrx : s.rx = s.rx.take (bytesRead k s) ++ t.rx := by
    rw [h.reads.1, List.take_append_drop]
  have htx : ∃ out, t.tx = s.tx ++ out := by
    cases h with
    | completed => exact ⟨_, rfl⟩
    | _ => exact ⟨[], (List.append_nil _).symm⟩
  rw [reportEvent_eq]
  cases h <;> exact ⟨rfl, rfl, rfl, htx, ⟨_, rfl⟩, ⟨_, hrx⟩⟩

theorem polls_runKeeps {ks : List Nat} {s t : State} (h : polls ks s = .next t) : RunKeeps s t :=
  polls_keep (P := RunKeeps s) (fun hi hs => hs.trans hi.runKeeps) h (.refl s)

/-- Settles O54: a run of invocations by `RunKeeps`, every other move by what it answers. -/
theorem movesKeepTheirPlaces : Obligations.MovesKeepTheirPlaces := by
  intro s t h
  rcases step_cases h with ⟨hp, ks, n, hpolls⟩ | ⟨x, xs, hx, hmove⟩
  · obtain ⟨hserial, hcap, hin, htx, hobs, -⟩ := polls_runKeeps hpolls
    refine ⟨fun hne => ?_, fun _ => ?_, .inl htx, hobs, hin⟩
    · exact hne.elim (absurd hserial) (absurd hcap)
    · exact hp.imp_right fun ⟨x, xs, hx, hcase⟩ => ⟨x, xs, hx, hcase.imp_right .inl⟩
  · have same : ∃ o, s.observed = s.observed ++ o := ⟨[], (List.append_nil _).symm⟩
    have htail : xs = s.inputs.tail := by rw [hx, List.tail_cons]
    have silent : (∃ out, s.tx = s.tx ++ out) ∨ ∃ n xs, s.inputs = .hostTakes n :: xs ∧ s.tx = s.tx.drop n :=
      .inl ⟨[], (List.append_nil _).symm⟩
    cases hmove with
    | construct n serial =>
      exact ⟨fun _ => ⟨n, serial, xs, hx⟩, fun _ => .inr ⟨_, xs, hx, .inr (.inr ⟨n, serial, rfl⟩)⟩, silent, same, htail⟩
    | uploadDmx valid data =>
      rw [uploadDmx_eq]
      exact ⟨fun hne => hne.elim (absurd rfl) (absurd rfl), fun hne => absurd rfl hne, .inl ⟨_, rfl⟩, same, htail⟩
    | readChannel | getParameters =>
      exact ⟨fun hne => hne.elim (absurd rfl) (absurd rfl), fun hne => absurd rfl hne, silent, ⟨_, rfl⟩, htail⟩
    | hostSends bytes =>
      exact ⟨fun hne => hne.elim (absurd rfl) (absurd rfl), fun hne => absurd rfl hne, silent, same, htail⟩
    | hostTakes n =>
      exact ⟨fun hne => hne.elim (absurd rfl) (absurd rfl), fun hne => absurd rfl hne,
        .inr ⟨n, xs, hx, rfl⟩, same, htail⟩

/-- Settles O57: a run of invocations takes from the head, the host's bytes join at the tail, and no other move touches
`rx` (R35, R37, R43). -/
theorem unreadBytesLeaveFromTheHead : Obligations.UnreadBytesLeaveFromTheHead := by
  intro s t h
  rcases step_cases h with ⟨hp, ks, n, hpolls⟩ | ⟨x, xs, hx, hmove⟩
  · obtain ⟨taken, hrx⟩ := (polls_runKeeps hpolls).rx_taken
    exact .inr ⟨taken, hrx, fun _ => hp⟩
  · cases hmove with
    | hostSends bytes => exact .inl ⟨bytes, xs, hx, rfl⟩
    | uploadDmx valid data =>
      rw [uploadDmx_eq]
      exact .inr ⟨[], rfl, fun h => absurd rfl h⟩
    | construct | readChannel | getParameters | hostTakes => exact .inr ⟨[], rfl, fun h => absurd rfl h⟩

end Sys2Proof.Machine
end

section
/-! PROOFS. Polling to quiescence (40_framing_fsm.md R79, 70_reset_and_hazards.md R193) and the ways bytes may be
delivered (40_framing_fsm.md R81). -/

namespace Sys2Proof.Machine

/-! ## Quiescence -/

theorem quiescent_iff {s : State} : s.quiescent = true ↔ s.rx = [] ∨ s.waiting = true := by
  simp [State.quiescent]

/-- In a quiescent state an invocation is a no-op. -/
theorem poll_of_quiescent (k : Nat) {s : State} (h : s.quiescent = true) : poll k s = .next s := by
  by_cases hr : s.rx = []
  · exact poll_of_process (process_nil k hr)
  · obtain ⟨t, e, hproc, hi⟩ := process_invocation k s
    have hw := (quiescent_iff.1 h).resolve_left hr
    rcases hi.waits_or_progresses hr with ⟨-, rfl, rfl⟩ | ⟨hno, -⟩
    · exact poll_of_process hproc
    · exact nomatch hw.symm.trans hno

theorem polls_of_quiescent (ks : List Nat) {s : State} (h : s.quiescent = true) : polls ks s = .next s := by
  induction ks with
  | nil => rfl
  | cons k ks ih => rw [polls, poll_of_quiescent k h, andThen_next, ih]

/-- In any other state it makes progress. -/
theorem Invocation.progress {k : Nat} {s t : State} {e : Event} (h : Invocation k s t e)
    (hq : ¬ s.quiescent = true) : s.rx ≠ [] ∧ Progress s t := by
  obtain ⟨hr, hw⟩ := not_or.1 (mt quiescent_iff.2 hq)
  exact ⟨hr, (h.waits_or_progresses hr).elim (fun hyes => absurd hyes.1 hw) And.right⟩

/-- A bound on the invocations until quiescence. -/
def pollsNeeded (s : State) : Nat := 2 * s.rx.length - if s.parse = .awaitingEnd then 1 else 0

theorem pollsNeeded_lt {s t : State} (hr : s.rx ≠ []) (h : Progress s t) : pollsNeeded t < pollsNeeded s := by
  have hpos := List.length_pos_of_ne_nil hr
  rcases h with hshort | ⟨hrx, hs, ht⟩
  · unfold pollsNeeded
    split <;> split <;> omega
  · simp only [pollsNeeded, hrx, hs, ht, reduceCtorEq, if_true, if_false]
    omega

theorem rx_eq_nil_of_pollsNeeded {s : State} (h : pollsNeeded s = 0) : s.rx = [] := by
  unfold pollsNeeded at h
  refine List.eq_nil_of_length_eq_zero ?_
  split at h <;> omega

/-- As many invocations as the bound allows end in quiescence. -/
theorem polls_reach_quiescence {ks : List Nat} {s : State} (h : pollsNeeded s ≤ ks.length) :
    ∃ t, polls ks s = .next t ∧ t.quiescent = true := by
  induction ks generalizing s with
  | nil => exact ⟨s, rfl, quiescent_iff.2 (.inl (rx_eq_nil_of_pollsNeeded (Nat.le_zero.1 h)))⟩
  | cons k ks ih =>
    by_cases hq : s.quiescent = true
    · exact ⟨s, polls_of_quiescent _ hq, hq⟩
    · obtain ⟨u, hpoll⟩ := poll_answers k s
      obtain ⟨v, e, hi, rfl⟩ := invocation_of_poll hpoll
      obtain ⟨hr, hprog⟩ := hi.progress hq
      have hlt : pollsNeeded (reportEvent e v) < pollsNeeded s := by
        rw [reportEvent_eq]
        exact pollsNeeded_lt hr hprog
      rw [List.length_cons] at h
      obtain ⟨t, ht, hquiet⟩ := ih (s := reportEvent e v) (by omega)
      exact ⟨t, by rw [polls, hpoll, andThen_next, ht], hquiet⟩

/-- Settles O32: `pollsNeeded` is at most twice the number of bytes that wait. -/
theorem pollingReachesQuiescence : Obligations.PollingReachesQuiescence := by
  intro s ks h
  exact polls_reach_quiescence (Nat.le_trans (Nat.sub_le _ _) h)

/-! ## Invocations that ask for one byte each -/

/-- `n` invocations, each with DMX_BURST asking for one byte: the one run that every delivery amounts to. -/
def singles (n : Nat) (s : State) : Host.Outcome State Fault Refusal := polls (List.replicate n 1) s

theorem singles_zero (s : State) : singles 0 s = .next s := rfl

theorem singles_succ (n : Nat) (s : State) : singles (n + 1) s = andThen (poll 1 s) (singles n) := rfl

theorem singles_add {n m : Nat} {s u : State} (h : singles n s = .next u) : singles (n + m) s = singles m u := by
  unfold singles at h ⊢
  rw [← List.replicate_append_replicate, polls_append, h, andThen_next]

theorem singles_one (s : State) : singles 1 s = poll 1 s := polls_singleton 1 s

theorem burst_one (s : State) : burst 1 s = 1 := by
  unfold burst
  omega

theorem poll_burst (k : Nat) {s : State} (h : s.TakesBurst) : poll k s = .next (s.afterBurst (burst k s)) :=
  poll_of_process (process_burst k h)

/-- One payload byte and then `n` more. -/
theorem afterBurst_succ {s : State} {n : Nat} (hlt : s.received.toNat < s.length.toNat) (hn : n + 1 ≤ s.rx.length) :
    (s.afterBurst 1).afterBurst n = s.afterBurst (n + 1) := by
  have hcount : (s.afterBurst 1).received.toNat = s.received.toNat + 1 := received_succ hlt
  have hreceived : (s.afterBurst 1).received + BitVec.ofNat 16 n = s.received + BitVec.ofNat 16 (n + 1) :=
    count_succ _ _
  have hfirst : (s.afterBurst 1).chan = (dmxWrite s.received.toNat ((s.rx.take (n + 1)).take 1) s).chan := by
    rw [List.take_take, Nat.min_eq_left (by omega), State.afterBurst]
  have hrest : (s.afterBurst 1).rx.take n = (s.rx.take (n + 1)).drop 1 := by
    rw [List.drop_take, Nat.add_sub_cancel, State.afterBurst]
  have hchan := chan_dmxWrite_take_drop (s := s) (u := s.afterBurst 1) s.received.toNat 1 (s.rx.take (n + 1))
    (by rw [List.length_take_of_le hn]; omega) rfl hfirst
  have hrx : (s.afterBurst 1).rx.drop n = s.rx.drop (n + 1) := by
    rw [State.afterBurst, List.drop_drop, Nat.add_comm]
  rw [← hrest, ← hcount] at hchan
  rw [State.afterBurst, hrx, hreceived, hchan]
  rfl

/-- A burst of `n` bytes is `n` bursts of one. -/
theorem singles_channels (n : Nat) {s : State} (hp : s.parse = .awaitingPayload) (hl : s.label = .sendDmxData)
    (hroom : s.received.toNat + n ≤ s.length.toNat) (hn : n ≤ s.rx.length) :
    singles n s = .next (s.afterBurst n) := by
  induction n generalizing s with
  | zero => simp [singles_zero, State.afterBurst, dmxWrite_nil]
  | succ n ih =>
    have hlt : s.received.toNat < s.length.toNat := by omega
    have hcount : (s.afterBurst 1).received.toNat = s.received.toNat + 1 := received_succ hlt
    have hfirst := poll_burst 1 ⟨hp, List.ne_nil_of_length_pos (by omega), received_ne hlt, hl⟩
    rw [burst_one] at hfirst
    have hrest : singles n (s.afterBurst 1) = .next ((s.afterBurst 1).afterBurst n) := by
      refine ih hp hl ?_ ?_
      · rw [hcount, show (s.afterBurst 1).length = s.length from rfl]
        omega
      · rw [State.afterBurst, List.length_drop]
        omega
    rw [singles_succ, hfirst, andThen_next, hrest, afterBurst_succ hlt hn]

/-- Every invocation is some number of invocations that ask for one byte. -/
theorem singles_of_poll {k : Nat} {s u : State} (h : poll k s = .next u) : ∃ n, singles n s = .next u := by
  by_cases hb : s.TakesBurst
  · rw [poll_burst k hb] at h
    cases h
    by_cases hlt : s.received.toNat < s.length.toNat
    · exact ⟨burst k s, singles_channels _ hb.parse_eq hb.label_eq (received_add_burst hlt).2
        (burst_le_avail k s hb.rx_ne)⟩
    · exact ⟨1, by rw [singles_one, poll_burst 1 hb, burst_of_not_lt 1 hlt, burst_of_not_lt k hlt]⟩
  · obtain ⟨t, e, hi, rfl⟩ := invocation_of_poll h
    refine ⟨1, ?_⟩
    rw [singles_one, poll, process_of_invocation hi hb 1, andThen_next]

/-! ## Bytes that arrive behind the ones that wait -/

theorem not_progress_self (s : State) : ¬ Progress s s := by
  rintro (h | ⟨-, hp, hp'⟩)
  · exact Nat.lt_irrefl _ h
  · exact nomatch hp.symm.trans hp'

/-- An invocation that makes progress and is no burst does not look at the bytes behind those it reads. -/
theorem Invocation.with_more {k : Nat} {s t : State} {e : Event} (h : Invocation k s t e) (hn : ¬ s.TakesBurst)
    (hprog : Progress s t) (more : List Byte) : Invocation k (hostSends more s) (hostSends more t) e := by
  have cons {b : Byte} {rest : List Byte} (hrx : s.rx = b :: rest) : (hostSends more s).rx = b :: (rest ++ more) := by
    rw [hostSends_rx, hrx, List.cons_append]
  cases h with
  | noBytes | lengthWaits | sizeWaits | blockWaits => exact absurd hprog (not_progress_self s)
  | start hp hrx => exact .start hp (cons hrx)
  | noise hp hrx hb => exact .noise hp (cons hrx) hb
  | label hp hrx => exact .label hp (cons hrx)
  | lengthDropped hp hrx hlen => exact .lengthDropped hp (cons hrx) hlen
  | lengthAccepted hp hrx hlen => exact .lengthAccepted hp (cons hrx) hlen
  | payloadDone hp hr hd => exact .payloadDone hp (List.append_ne_nil_of_left_ne_nil hr more) hd
  | discards hp hne hrx hch hsize hblock => exact .discards hp hne (cons hrx) hch hsize hblock
  | sizeTaken hp hne hl h2 hrx => exact .sizeTaken hp hne hl h2 (cons hrx)
  | blockTaken hp hne hl h5 h0 hrx => exact .blockTaken hp hne hl h5 h0 (cons hrx)
  | channels hp hne hl hr _ => exact absurd ⟨hp, hr, hne, hl⟩ hn
  | completed hp hrx he =>
    have hreply : replyBytes s.label s = replyBytes (hostSends more s).label (hostSends more s) :=
      replyBytes_congr s.label rfl rfl rfl rfl rfl
    rw [hreply]
    exact .completed hp (cons hrx) he
  | wrongEnd hp hrx hb => exact .wrongEnd hp (cons hrx) hb

theorem reportEvent_hostSends (e : Event) (more : List Byte) (s : State) :
    reportEvent e (hostSends more s) = hostSends more (reportEvent e s) := by
  rw [reportEvent_eq, reportEvent_eq]
  rfl

/-- One payload byte is the same byte with more behind it. -/
theorem afterBurst_one_hostSends (more : List Byte) {s : State} (hr : s.rx ≠ []) :
    (hostSends more s).afterBurst 1 = hostSends more (s.afterBurst 1) := by
  obtain ⟨b, rest, hrx⟩ := List.exists_cons_of_ne_nil hr
  have hchan : (dmxWrite s.received.toNat [b] (hostSends more s)).chan = (dmxWrite s.received.toNat [b] s).chan :=
    chan_dmxWrite_congr _ _ rfl rfl
  have hmore : (hostSends more s).rx = b :: (rest ++ more) := by rw [hostSends_rx, hrx, List.cons_append]
  simp only [State.afterBurst, hmore, hrx, List.take_succ_cons, List.take_zero, List.drop_succ_cons, List.drop_zero]
  rw [hostSends_received, hchan]
  rfl

/-- Out of quiescence, an invocation that asks for one byte does the same with more bytes behind. -/
theorem poll_one_hostSends (more : List Byte) {s u : State} (hq : ¬ s.quiescent = true)
    (h : poll 1 s = .next u) : poll 1 (hostSends more s) = .next (hostSends more u) := by
  by_cases hb : s.TakesBurst
  · obtain ⟨hp, hr, hne, hl⟩ := hb
    have hmore : (hostSends more s).TakesBurst := ⟨hp, List.append_ne_nil_of_left_ne_nil hr more, hne, hl⟩
    rw [poll_burst 1 ⟨hp, hr, hne, hl⟩, burst_one] at h
    cases h
    rw [poll_burst 1 hmore, burst_one, afterBurst_one_hostSends more hr]
  · obtain ⟨t, e, hi, rfl⟩ := invocation_of_poll h
    have hb' : ¬ (hostSends more s).TakesBurst :=
      fun ⟨hp, _, hne, hl⟩ => hb ⟨hp, (hi.progress hq).1, hne, hl⟩
    rw [poll, process_of_invocation (hi.with_more hb (hi.progress hq).2 more) hb' 1, andThen_next]
    exact congrArg Host.Outcome.next (reportEvent_hostSends e more t)

/-- A run that asks for one byte each time can be had with more bytes behind: the invocations that wait are left out. -/
theorem singles_hostSends (more : List Byte) {n : Nat} {s u : State} (h : singles n s = .next u) :
    ∃ m, singles m (hostSends more s) = .next (hostSends more u) := by
  induction n generalizing s with
  | zero =>
    cases h
    exact ⟨0, rfl⟩
  | succ n ih =>
    rw [singles_succ] at h
    obtain ⟨v, hpoll, hrest⟩ := andThen_eq_next h
    by_cases hq : s.quiescent = true
    · rw [poll_of_quiescent 1 hq] at hpoll
      cases hpoll
      exact ih hrest
    · obtain ⟨m, hm⟩ := ih hrest
      exact ⟨m + 1, by rw [singles_succ, poll_one_hostSends more hq hpoll, andThen_next, hm]⟩

/-! ## Deliveries -/

/-- Every delivery is a run on all its bytes at once that asks for one byte each time. -/
theorem singles_of_deliver {d : List Delivery} {s t : State} (h : deliver d s = .next t) :
    ∃ n, singles n (hostSends (delivered d) s) = .next t := by
  induction d generalizing s with
  | nil =>
    cases h
    refine ⟨0, ?_⟩
    rw [singles_zero, delivered, hostSends, List.append_nil]
  | cons x d ih =>
    cases x with
    | chunk bytes =>
      obtain ⟨n, hn⟩ := ih (s := hostSends bytes s) h
      refine ⟨n, ?_⟩
      rw [← hn, delivered, hostSends, hostSends, hostSends_rx, List.append_assoc]
      rfl
    | poll k =>
      obtain ⟨u, hpoll, hrest⟩ := andThen_eq_next (r := poll k s) h
      obtain ⟨n, hn⟩ := ih hrest
      obtain ⟨m, hm⟩ := singles_of_poll hpoll
      obtain ⟨m', hm'⟩ := singles_hostSends (delivered d) hm
      exact ⟨m' + n, (singles_add hm').trans hn⟩

/-- The longer of two runs that ask for one byte each time goes on from where the shorter came to rest. -/
theorem singles_quiescent_unique {n m : Nat} (hnm : n ≤ m) {s t u : State} (ht : singles n s = .next t)
    (hu : singles m s = .next u) (hq : t.quiescent = true) : t = u := by
  obtain ⟨j, rfl⟩ := Nat.exists_eq_add_of_le hnm
  rw [singles_add ht, singles, polls_of_quiescent _ hq] at hu
  cases hu
  rfl

/-- Settles O33: both deliveries are such runs from the same state, and a quiescent state is where they end (R81). -/
theorem chunkingInvariance : Obligations.ChunkingInvariance := by
  intro s t1 t2 d1 d2 hd h1 h2 hq1 hq2
  obtain ⟨n, hn⟩ := singles_of_deliver h1
  obtain ⟨m, hm⟩ := singles_of_deliver h2
  rw [hd] at hn
  rcases Nat.le_total n m with hnm | hmn
  · exact singles_quiescent_unique hnm hn hm hq1
  · exact (singles_quiescent_unique hmn hm hn hq2).symm

end Sys2Proof.Machine
end

section
/-! PROOFS. 601 bytes 0x00 bring the decoder back to `Idle` (70_reset_and_hazards.md R186): how many of them the frame
in progress can still use up, from any state of the invariant. -/

namespace Sys2Proof.Machine

/-- The end of `rx` is a run of `m` bytes 0x00, and until the bytes before it are gone `m` is 601. -/
def ZeroTail (m : Nat) (rx : List Byte) : Prop :=
  ∃ before, rx = before ++ List.replicate m 0 ∧ (before ≠ [] → m = 601)

theorem ZeroTail.le_length {m : Nat} {rx : List Byte} (h : ZeroTail m rx) : m ≤ rx.length := by
  obtain ⟨before, rfl, -⟩ := h
  simp

/-- The byte that comes next is one of the run, or the run is still whole behind it. -/
theorem ZeroTail.next {m : Nat} {b : Byte} {rest : List Byte} (h : ZeroTail m (b :: rest)) :
    (b = 0 ∧ 1 ≤ m ∧ ZeroTail (m - 1) rest) ∨ (m = 601 ∧ ZeroTail 601 rest) := by
  obtain ⟨before, hrx, hm⟩ := h
  cases before with
  | nil =>
    cases m with
    | zero => exact nomatch hrx
    | succ m =>
      cases hrx
      exact .inl ⟨rfl, Nat.le_add_left 1 m, [], rfl, fun h => absurd rfl h⟩
  | cons c before =>
    obtain rfl := hm (List.cons_ne_nil c before)
    cases hrx
    exact .inr ⟨rfl, before, rfl, fun _ => rfl⟩

/-- Taking `n` bytes takes at most `n` of the run. -/
theorem ZeroTail.drop {m : Nat} {rx : List Byte} (h : ZeroTail m rx) (n : Nat) :
    ∃ m', ZeroTail m' (rx.drop n) ∧ m ≤ m' + n := by
  induction n generalizing m rx with
  | zero => exact ⟨m, h, Nat.le_refl _⟩
  | succ n ih =>
    cases rx with
    | nil => exact ⟨m, h, Nat.le_add_right _ _⟩
    | cons b rest =>
      rw [List.drop_succ_cons]
      rcases h.next with ⟨-, hpos, htail⟩ | ⟨hm, htail⟩
      · obtain ⟨m', hm', hle⟩ := ih htail
        exact ⟨m', hm', by omega⟩
      · obtain ⟨m', hm', hle⟩ := ih htail
        exact ⟨m', hm', by omega⟩

/-- How many bytes 0x00 the block takes at most before it is in `Idle`. -/
def zerosNeeded (s : State) : Nat :=
  match s.parse with
  | .idle => 0
  | .awaitingLabel => 4
  | .awaitingLength => 3
  | .awaitingPayload => s.length.toNat - s.received.toNat + 1
  | .awaitingEnd => 1

/-- A state of the invariant from which the run of bytes 0x00 leads to `Idle`. -/
def Resynchronises (s : State) : Prop :=
  s.Inv ∧ ∃ m, ZeroTail m s.rx ∧ zerosNeeded s ≤ m

theorem zerosNeeded_le {s : State} (h : s.Inv) : zerosNeeded s ≤ 601 := by
  obtain ⟨-, -, -, hmax, -⟩ := h
  replace hmax : s.length.toNat ≤ 600 := hmax
  unfold zerosNeeded
  split <;> omega

/-- Bytes that count toward `Idle` one by one. -/
theorem tail_of_counted {s t : State} {m n : Nat} (hm : ZeroTail m s.rx) (hneed : zerosNeeded s ≤ m)
    (hrx : t.rx = s.rx.drop n) (hcount : zerosNeeded t + n ≤ zerosNeeded s) :
    ∃ m', ZeroTail m' t.rx ∧ zerosNeeded t ≤ m' := by
  obtain ⟨m', hm', hle⟩ := hm.drop n
  rw [hrx]
  exact ⟨m', hm', by omega⟩

/-- The bytes of a handler call count (R95). -/
theorem Invocation.handler_counts {k : Nat} {s t : State} {e : Event} (h : Invocation k s t e) (hs : s.Inv)
    (hp : s.parse = .awaitingPayload) (hr : s.rx ≠ []) (hne : s.received ≠ s.length)
    (ht : t.parse = .awaitingPayload ∨ t.parse = .awaitingEnd) :
    zerosNeeded t + bytesRead k s ≤ zerosNeeded s := by
  obtain ⟨hn, hcount, hlength, -, -, -, -, -⟩ := h.contract hs hp hr hne
  obtain ⟨hlt, -⟩ := hs.counters hp hne
  have hreceived : t.received.toNat = s.received.toNat + bytesRead k s := by
    rw [hcount]
    exact received_add (by omega)
  rcases ht with ht | ht
  · simp only [zerosNeeded, hp, ht, hlength, hreceived]
    omega
  · simp only [zerosNeeded, hp, ht]
    omega

/-- A LENGTH whose second byte is 0x00 is below 256; with both it is 0. -/
theorem tail_of_length {m : Nat} {b0 b1 : Byte} {rest : List Byte} (hm : ZeroTail m (b0 :: b1 :: rest)) (h3 : 3 ≤ m)
    (hlen : (le16 b0 b1).toNat ≤ 600) : ∃ m', ZeroTail m' rest ∧ (le16 b0 b1).toNat + 1 ≤ m' := by
  rw [le16_toNat] at hlen ⊢
  have hb0 := b0.isLt
  rcases hm.next with ⟨rfl, -, htail⟩ | ⟨rfl, htail⟩
  · rcases htail.next with ⟨rfl, -, htail'⟩ | ⟨-, htail'⟩
    · exact ⟨m - 1 - 1, htail', by simp only [BitVec.ofNat_eq_ofNat, BitVec.toNat_zero]; omega⟩
    · exact ⟨601, htail', by omega⟩
  · rcases htail.next with ⟨rfl, -, htail'⟩ | ⟨-, htail'⟩
    · exact ⟨600, htail', by simp only [BitVec.ofNat_eq_ofNat, BitVec.toNat_zero]; omega⟩
    · exact ⟨601, htail', by omega⟩

/-- An invocation keeps the run long enough. -/
theorem Invocation.resynchronises {k : Nat} {s t : State} {e : Event} (h : Invocation k s t e)
    (hs : Resynchronises s) : Resynchronises t := by
  obtain ⟨hinv, m, hm, hneed⟩ := hs
  have hinv' := h.inv hinv
  have hreads := h.reads.1
  have idle (hp : t.parse = .idle) : ∃ m', ZeroTail m' t.rx ∧ zerosNeeded t ≤ m' := by
    obtain ⟨m', hm', -⟩ := hm.drop (bytesRead k s)
    rw [hreads]
    exact ⟨m', hm', by simp [zerosNeeded, hp]⟩
  refine ⟨hinv', ?_⟩
  have handled (hp : s.parse = .awaitingPayload) (hr : s.rx ≠ []) (hne : s.received ≠ s.length)
      (ht : t.parse = .awaitingPayload ∨ t.parse = .awaitingEnd) : ∃ m', ZeroTail m' t.rx ∧ zerosNeeded t ≤ m' :=
    tail_of_counted hm hneed hreads (h.handler_counts hinv hp hr hne ht)
  cases h with
  | noBytes | lengthWaits | sizeWaits | blockWaits => exact ⟨m, hm, hneed⟩
  | noise hp => exact idle hp
  | lengthDropped | completed | wrongEnd => exact idle rfl
  | start hp hrx =>
    rw [hrx] at hm
    rcases hm.next with ⟨hzero, -⟩ | ⟨-, htail⟩
    · exact nomatch hzero
    · exact ⟨601, htail, zerosNeeded_le hinv'⟩
  | label hp hrx => exact tail_of_counted hm hneed (n := 1) (by rw [hrx]; rfl) (by simp [zerosNeeded, hp])
  | lengthAccepted hp hrx hlen =>
    rw [hrx] at hm
    simp only [zerosNeeded, hp] at hneed
    exact tail_of_length hm hneed hlen
  | payloadDone hp => exact tail_of_counted hm hneed (n := 0) rfl (by simp [zerosNeeded, hp])
  | discards hp hne hrx => exact handled hp (by simp [hrx]) hne (.inl hp)
  | sizeTaken hp hne _ _ hrx => exact handled hp (by simp [hrx]) hne (.inr rfl)
  | blockTaken hp hne _ _ _ hrx => exact handled hp (by simp [hrx]) hne (.inl hp)
  | channels hp hne _ hr => exact handled hp hr hne (.inl hp)

theorem resynchronises_reportEvent {e : Event} {s : State} (h : Resynchronises s) :
    Resynchronises (reportEvent e s) := by
  rw [reportEvent_eq]
  exact h

/-- In a waiting condition more bytes 0x00 are still needed than bytes wait. -/
theorem rx_lt_zerosNeeded_of_waiting {s : State} (hs : s.Inv) (hw : s.waiting = true) :
    s.rx.length < zerosNeeded s := by
  obtain ⟨-, -, -, -, hget⟩ := hs
  rw [State.waiting_eq] at hw
  split at hw
  · next hp =>
    simp only [zerosNeeded, hp, beq_iff_eq.1 hw]
    decide
  · next hp hl =>
    simp only [Bool.and_eq_true, bne_iff_ne, decide_eq_true_eq, beq_iff_eq] at hw
    obtain ⟨⟨hne, h2⟩, hrx⟩ := hw
    have h0 : s.received = 0 := (hget hp hl).resolve_right hne
    simp only [zerosNeeded, hp, hrx, h0, BitVec.ofNat_eq_ofNat, BitVec.toNat_zero]
    omega
  · next hp hl =>
    simp only [Bool.and_eq_true, decide_eq_true_eq, beq_iff_eq] at hw
    obtain ⟨⟨⟨h5, h0⟩, -⟩, hrx⟩ := hw
    simp only [zerosNeeded, hp, h0, BitVec.ofNat_eq_ofNat, BitVec.toNat_zero]
    omega
  · exact nomatch hw

/-- Where the run is long enough, the block comes to rest in `Idle` with nothing waiting. -/
theorem Resynchronises.idle_of_quiescent {s : State} (h : Resynchronises s) (hq : s.quiescent = true) :
    s.parse = .idle ∧ s.rx = [] := by
  obtain ⟨hinv, m, hm, hneed⟩ := h
  have hle := hm.le_length
  rcases quiescent_iff.1 hq with hrx | hw
  · rw [hrx, List.length_nil] at hle
    refine ⟨?_, hrx⟩
    unfold zerosNeeded at hneed
    split at hneed
    · assumption
    all_goals omega
  · have := rx_lt_zerosNeeded_of_waiting hinv hw
    omega

/-- Settles O35: the run of 601 is long enough from every state of the invariant (R186). -/
theorem zeroBytesResynchronise : Obligations.ZeroBytesResynchronise := by
  intro s t ks hs hpolls hq
  have hinv : (hostSends (List.replicate 601 0) s).Inv := hs
  have hstart : Resynchronises (hostSends (List.replicate 601 0) s) :=
    ⟨hinv, 601, ⟨s.rx, rfl, fun _ => rfl⟩, zerosNeeded_le hinv⟩
  exact (polls_keep (fun hi hs => resynchronises_reportEvent (hi.resynchronises hs)) hpolls hstart).idle_of_quiescent hq

end Sys2Proof.Machine
end
